-- ==== Sys2Proof/Word.lean ====
section
/-! DEFINITION. The word type of the block: one byte, the element type `T` of both serial rings (R6). Every other
quantity of the spec has a width that is a parameter and is held as a natural number below two to that width. -/

namespace Sys2Proof

/-- One byte (R6: "one byte, 8 bits"). -/
abbrev Byte := BitVec 8

end Sys2Proof
end

