-- ==== Sys2Proof/Config.lean ====
section
/-! DEFINITION. What an implementation fixes (the parameters of R6, carried by every state in its field `cfg`) and the
free values: opaque constants that stand for what the spec leaves open. No proof can see what an opaque constant is. -/

namespace Sys2Proof

/-- The three sub-components that `PUMP` advances, in the order `PUMP_ORDER` gives (R6, R250). -/
inductive PumpUnit where
  | serial
  | adc
  | blink
deriving DecidableEq, Repr

/-- One entry of `CHANNELS` (R210): hardware channel id and polarity flag. No operation reads `pol` (R217). -/
structure Channel where
  ch : Nat
  pol : Bool
deriving DecidableEq, Repr

/-- The implementation parameters of R6, "fixed before reset and never changed by any operation". `W_TIME` and `K` are
derived. `matcherRetries` is the boot-trigger matcher that U21 of 93_implementation_defined.md leaves open: false is the
matcher R167 fixes. -/
structure Params where
  /-- `N_RX`. -/
  nRx : Nat
  /-- `N_TX`; 0 selects unbuffered transmit. -/
  nTx : Nat
  /-- `BAUD`. -/
  baud : Nat
  /-- `ASYNC_TX`. -/
  asyncTx : Bool
  /-- `RX_IRQ`. -/
  rxIrq : Bool
  /-- `W_CNT`. -/
  wCnt : Nat
  /-- `W_OVF`. -/
  wOvf : Nat
  /-- `W_LOSS`. -/
  wLoss : Nat
  /-- `ATOMIC_W`. -/
  atomicW : Nat
  /-- `BOOT_SEQ`. -/
  bootSeq : List Byte
  /-- `EXT_MARKER`. -/
  extMarker : Byte
  /-- `PAYLOAD_TIMEOUT`. -/
  payloadTimeout : Nat
  /-- `CHANNELS`, its length `K`. -/
  channels : List Channel
  /-- `W_ADC`. -/
  wAdc : Nat
  /-- `W_COUNT`. -/
  wCount : Nat
  /-- `N_DL`. -/
  nDl : Nat
  /-- `N_SW`. -/
  nSw : Nat
  /-- `NOW_RETRY_ON_EQUAL`. -/
  retryOnEqual : Bool
  /-- `PUMP_ORDER`. -/
  pumpOrder : List PumpUnit
  /-- The boot-trigger matcher (U21, R167): whether a mismatching byte is tried again as a first byte. -/
  matcherRetries : Bool
deriving DecidableEq, Repr

/-- `W_TIME = W_OVF + W_CNT` (R6). -/
def Params.wTime (P : Params) : Nat := P.wOvf + P.wCnt

/-- The constraints of R6 on the parameters. -/
def Params.valid (P : Params) : Bool :=
  decide (1 ≤ P.nRx) && decide (1 ≤ P.baud) && (P.wCnt == 8 || P.wCnt == 16) && decide (1 ≤ P.wOvf)
    && decide (1 ≤ P.wLoss) && (P.atomicW == 8 || P.atomicW == 16) && decide (1 ≤ P.bootSeq.length)
    && decide (P.payloadTimeout < 2 ^ P.wTime) && decide (1 ≤ P.channels.length) && decide (1 ≤ P.wAdc)
    && decide (1 ≤ P.wCount) && decide (P.pumpOrder.Perm [.serial, .adc, .blink])

/-- The reference parameter set P0 of R6. DESIGN CHOICE, unsafe for a statement about `State.reset` (log 1): the source
gives none of these values. -/
def Params.p0 : Params where
  nRx := 4
  nTx := 2
  baud := 38400
  asyncTx := false
  rxIrq := false
  wCnt := 8
  wOvf := 8
  wLoss := 8
  atomicW := 8
  bootSeq := [0xA1, 0xA2, 0xA3]
  extMarker := 0x80
  payloadTimeout := 100
  channels := [⟨0, false⟩, ⟨1, false⟩, ⟨2, false⟩]
  wAdc := 10
  wCount := 8
  nDl := 2
  nSw := 1
  retryOnEqual := true
  pumpOrder := [.serial, .adc, .blink]
  matcherRetries := false

/-- Which of several requests is taken first (R271: "any one of them may be taken first"; log 10). -/
opaque Config.irqChoice : Nat → Nat

/-- The value of a tally that a handler wrote between the parts of its read (R66: "any value"; log 11). -/
opaque Config.freeTally : Nat → Nat

/-- The counter after `ENV.RESET` (R300, R55: "unspecified"; log 8). -/
opaque Config.freeCounter : Nat → Nat

/-- The conversion result register after `ENV.RESET` (log 8). -/
opaque Config.freeAdcResult : Nat → Nat

/-- The output level after `ENV.RESET`, true for high (log 8). -/
opaque Config.freeLevel : Nat → Bool

/-- The unspecified time-valued fields after `ENV.RESET`: first argument the draw, second the field (log 8). -/
opaque Config.freeTime : Nat → Nat → Nat

/-- The unspecified one-bit fields after `ENV.RESET`: first argument the draw, second the field (log 8). -/
opaque Config.freeFlag : Nat → Nat → Bool

/-- The unspecified bytes after `ENV.RESET`: first argument the draw, second the field (log 8). -/
opaque Config.freeByte : Nat → Nat → Byte

/-- The unspecified converted values after `ENV.RESET`: first argument the draw, second the channel (log 8). -/
opaque Config.freeSample : Nat → Nat → Nat

end Sys2Proof
end

