-- ==== Sys2Proof/Syntax.lean ====
section
/-! DEFINITION. The operations of the block: one constructor per row of spec/opcode_table.json (R95). -/

namespace Sys2Proof

/-- The ring operand `r` (R120): 0 is `sp.rx`, 1 is `sp.tx`. -/
inductive RingSel where
  | rx
  | tx
deriving DecidableEq, Repr

/-- The operations and environment events of R95, with their operands assembled (R93, R100). -/
inductive Instr where
  /-- `RB.PUSH r, v` (0x10, R121). -/
  | rbPush (r : RingSel) (v : Byte)
  /-- `RB.POP r` (0x11, R122). -/
  | rbPop (r : RingSel)
  /-- `RB.TOP r` (0x12, R123). -/
  | rbTop (r : RingSel)
  /-- `RB.EMPTY r` (0x13, R124). -/
  | rbEmpty (r : RingSel)
  /-- `RB.FULL r` (0x14, R125). -/
  | rbFull (r : RingSel)
  /-- `RB.SIZE r` (0x15, R126). -/
  | rbSize (r : RingSel)
  /-- `CLK.PROCESS` (0x20, R136). -/
  | clkProcess
  /-- `CLK.NOW` (0x21, R137). -/
  | clkNow
  /-- `DL.NEW d, duration` (0x30, R151). -/
  | dlNew (d : Nat) (duration : Nat)
  /-- `DL.ELAPSED d` (0x31, R152). -/
  | dlElapsed (d : Nat)
  /-- `DL.RESTART d` (0x32, R153). -/
  | dlRestart (d : Nat)
  /-- `DL.CANCEL d` (0x33, R154). -/
  | dlCancel (d : Nat)
  /-- `SW.NEW s` (0x38, R155). -/
  | swNew (w : Nat)
  /-- `SW.ELAPSED_TIME s` (0x39, R156). -/
  | swElapsedTime (w : Nat)
  /-- `BTF.CHECK b` (0x40, R166). -/
  | btfCheck (b : Byte)
  /-- `SP.INIT baud, async` (0x50, R177). -/
  | spInit (baud : BitVec 32) (async : Bool)
  /-- `SP.EMPTY` (0x51, R178). -/
  | spEmpty
  /-- `SP.TX_EMPTY` (0x52, R179). -/
  | spTxEmpty
  /-- `SP.TX_READY` (0x53, R180). -/
  | spTxReady
  /-- `SP.READ` (0x54, R181). -/
  | spRead
  /-- `SP.WRITE b` (0x55, R182). -/
  | spWrite (b : Byte)
  /-- `SP.FLUSH` (0x56, R183). -/
  | spFlush
  /-- `SP.PROCESS_RX` (0x57, R184). -/
  | spProcessRx
  /-- `SP.INTR_RX` (0x58, R185). -/
  | spIntrRx
  /-- `SP.PROCESS_TX` (0x59, R186). -/
  | spProcessTx
  /-- `SP.INTR_TX` (0x5A, R187). -/
  | spIntrTx
  /-- `SP.OVERFLOW` (0x5B, R188). -/
  | spOverflow
  /-- `SP.CLEAR_OVERFLOW` (0x5C, R189). -/
  | spClearOverflow
  /-- `ADC.PROCESS` (0x60, R212). -/
  | adcProcess
  /-- `ADC.VALUE` (0x61, R213). -/
  | adcValue
  /-- `ADC.START` (0x62, R211). -/
  | adcStart
  /-- `ADC.NEXT` (0x63, R214). -/
  | adcNext
  /-- `ADC.VALUE_OF i` (0x64, R215). -/
  | adcValueOf (i : Nat)
  /-- `CF.PUSH_DATA b` (0x70, R227). -/
  | cfPushData (b : Byte)
  /-- `CF.PAYLOAD i` (0x71, R228). -/
  | cfPayload (i : Nat)
  /-- `BL.SIGNAL count, on, off` (0x80, R241). -/
  | blSignal (count : Nat) (on : Nat) (off : Nat)
  /-- `BL.PROCESS` (0x81, R242). -/
  | blProcess
  /-- `PUMP` (0x90, R250). -/
  | pump
  /-- `WAIT duration` (0x91, R251). -/
  | wait (duration : Nat)
  /-- `CLI` (0xA0, R273). -/
  | cli
  /-- `SEI` (0xA1, R274). -/
  | sei
  /-- `ENV.TICK n` (0xE0, R46, R100). -/
  | envTick (n : Nat)
  /-- `ENV.RX data, flags` (0xE1, R48, R100). -/
  | envRx (data : Byte) (ovf : Bool) (fe : Bool)
  /-- `ENV.TX_DONE` (0xE2, R49). -/
  | envTxDone
  /-- `ENV.ADC_DONE v` (0xE3, R51). -/
  | envAdcDone (v : Nat)
  /-- `ENV.RESET` (0xEF, R300). -/
  | envReset
deriving DecidableEq, Repr

/-- Context E of R95: an environment or host event, which needs no context of the processor. -/
def Instr.isEnv : Instr → Bool
  | .envTick _ => true
  | .envRx _ _ _ => true
  | .envTxDone => true
  | .envAdcDone _ => true
  | .envReset => true
  | .rbPush _ _ | .rbPop _ | .rbTop _ | .rbEmpty _ | .rbFull _ | .rbSize _ | .clkProcess | .clkNow
  | .dlNew _ _ | .dlElapsed _ | .dlRestart _ | .dlCancel _ | .swNew _ | .swElapsedTime _
  | .btfCheck _ | .spInit _ _ | .spEmpty | .spTxEmpty | .spTxReady | .spRead | .spWrite _
  | .spFlush | .spProcessRx | .spIntrRx | .spProcessTx | .spIntrTx | .spOverflow | .spClearOverflow
  | .adcProcess | .adcValue | .adcStart | .adcNext | .adcValueOf _ | .cfPushData _ | .cfPayload _
  | .blSignal _ _ _ | .blProcess | .pump | .wait _ | .cli | .sei => false

end Sys2Proof
end

