-- ==== Sys2Proof/WellFormed.lean ====
section
/-! DEFINITION. Which operand values spell an operation (R93, R104), for given parameters. The ring selector, `bool`
and `flags` checks of R104 are made while decoding, since the constructors cannot hold an illegal value of those. -/

namespace Sys2Proof

/-- The bytes of a time operand: `W_TIME / 8` (R93). -/
def Params.timeBytes (P : Params) : Nat := P.wTime / 8

/-- A time operand fits the bytes that encode it (R93). -/
def Params.timeFits (P : Params) (t : Nat) : Bool := decide (t < 2 ^ (8 * P.timeBytes))

/-- An operand of one byte that indexes a space of `n` (R62, R104). -/
def indexFits (n : Nat) (i : Nat) : Bool := decide (i < n) && decide (i < 256)

/-- R104: the operand checks of every operation. A baud rate of 0 is outside the legal set that R36 gives `sp.baud` (log
16). -/
def Instr.wellFormed (P : Params) : Instr → Bool
  | .spInit baud _ => baud != 0
  | .dlNew d duration => indexFits P.nDl d && P.timeFits duration
  | .dlElapsed d => indexFits P.nDl d
  | .dlRestart d => indexFits P.nDl d
  | .dlCancel d => indexFits P.nDl d
  | .swNew w => indexFits P.nSw w
  | .swElapsedTime w => indexFits P.nSw w
  | .adcValueOf i => indexFits P.channels.length i
  | .cfPayload i => indexFits 1 i
  | .blSignal count on off =>
      indexFits (2 ^ P.wCount) count && P.timeFits on && P.timeFits off
  | .wait duration => P.timeFits duration
  | .envTick n => P.timeFits n
  | .envAdcDone v => decide (v < 2 ^ P.wAdc) && decide (v < 65536)
  | .rbPush _ _ | .rbPop _ | .rbTop _ | .rbEmpty _ | .rbFull _ | .rbSize _ | .clkProcess | .clkNow
  | .btfCheck _ | .spEmpty | .spTxEmpty | .spTxReady | .spRead | .spWrite _
  | .spFlush | .spProcessRx | .spIntrRx | .spProcessTx | .spIntrTx | .spOverflow | .spClearOverflow
  | .adcProcess | .adcValue | .adcStart | .adcNext | .cfPushData _ | .blProcess | .pump | .cli
  | .sei | .envRx _ _ _ | .envTxDone | .envReset => true

end Sys2Proof
end

