-- ==== Sys2Proof/Decode.lean ====
section
/-! DEFINITION. Operation words: the decoder of R91 to R95, total on any bytes and rejecting by name, and after it the
encoder, written from the same tables. -/

namespace Sys2Proof

/-- Why bytes spell no operation (R103, R104). -/
inductive DecodeError where
  /-- The bytes end inside the word. -/
  | truncated
  /-- The opcode byte is not in the table of R95 (R103). -/
  | opcode
  /-- The ring operand is not 0 or 1 (R104). -/
  | ring
  /-- A `bool` byte is not 0x00 or 0x01 (R93, R104). -/
  | bool
  /-- The reserved bits of `flags` are not 0 (R100, R104). -/
  | flags
  /-- An operand is outside its index space or does not fit its width (R104). -/
  | range
deriving DecidableEq, Repr

/-- The value of bytes, least significant byte first (R93). -/
def leValue : List Byte → Nat
  | [] => 0
  | b :: bs => b.toNat + 256 * leValue bs

/-- The lowest `n` bytes of a value, least significant byte first (R93). -/
def leBytes : Nat → Nat → List Byte
  | 0, _ => []
  | n + 1, v => BitVec.ofNat 8 v :: leBytes n (v / 256)

/-- What a decoder answers: an operation and the bytes after it, or the reason there is none. -/
abbrev Decoded := Except DecodeError (Instr × List Byte)

/-- An operand of one byte. -/
def takeByte (bs : List Byte) (k : Byte → List Byte → Decoded) : Decoded :=
  match bs with
  | [] => .error .truncated
  | b :: rest => k b rest

/-- An operand of `n` bytes, least significant byte first (R93). -/
def takeLe (n : Nat) (bs : List Byte) (k : Nat → List Byte → Decoded) : Decoded :=
  if n ≤ bs.length then k (leValue (bs.take n)) (bs.drop n) else .error .truncated

/-- The ring operand (R120, R104). -/
def takeRing (bs : List Byte) (k : RingSel → List Byte → Decoded) : Decoded :=
  takeByte bs fun b rest =>
    if b = 0 then k .rx rest else if b = 1 then k .tx rest else .error .ring

/-- A `bool` operand (R93, R104). -/
def takeBool (bs : List Byte) (k : Bool → List Byte → Decoded) : Decoded :=
  takeByte bs fun b rest =>
    if b = 0 then k false rest else if b = 1 then k true rest else .error .bool

/-- The `flags` operand of `ENV.RX` (R100): bit 0 is `ovf`, bit 1 is `fe`, bits 7 to 2 are 0. -/
def takeFlags (bs : List Byte) (k : Bool → Bool → List Byte → Decoded) : Decoded :=
  takeByte bs fun b rest =>
    if b.toNat < 4 then k (b.getLsbD 0) (b.getLsbD 1) rest else .error .flags

/-- The operation an opcode byte spells with the operand bytes after it, by the table of R95. -/
def decodeOperands (P : Params) (op : Nat) (bs : List Byte) : Decoded :=
  match op with
  | 0x10 => takeRing bs fun r bs => takeByte bs fun v bs => .ok (.rbPush r v, bs)
  | 0x11 => takeRing bs fun r bs => .ok (.rbPop r, bs)
  | 0x12 => takeRing bs fun r bs => .ok (.rbTop r, bs)
  | 0x13 => takeRing bs fun r bs => .ok (.rbEmpty r, bs)
  | 0x14 => takeRing bs fun r bs => .ok (.rbFull r, bs)
  | 0x15 => takeRing bs fun r bs => .ok (.rbSize r, bs)
  | 0x20 => .ok (.clkProcess, bs)
  | 0x21 => .ok (.clkNow, bs)
  | 0x30 => takeByte bs fun d bs => takeLe P.timeBytes bs fun t bs => .ok (.dlNew d.toNat t, bs)
  | 0x31 => takeByte bs fun d bs => .ok (.dlElapsed d.toNat, bs)
  | 0x32 => takeByte bs fun d bs => .ok (.dlRestart d.toNat, bs)
  | 0x33 => takeByte bs fun d bs => .ok (.dlCancel d.toNat, bs)
  | 0x38 => takeByte bs fun w bs => .ok (.swNew w.toNat, bs)
  | 0x39 => takeByte bs fun w bs => .ok (.swElapsedTime w.toNat, bs)
  | 0x40 => takeByte bs fun b bs => .ok (.btfCheck b, bs)
  | 0x50 => takeLe 4 bs fun v bs => takeBool bs fun a bs => .ok (.spInit (BitVec.ofNat 32 v) a, bs)
  | 0x51 => .ok (.spEmpty, bs)
  | 0x52 => .ok (.spTxEmpty, bs)
  | 0x53 => .ok (.spTxReady, bs)
  | 0x54 => .ok (.spRead, bs)
  | 0x55 => takeByte bs fun b bs => .ok (.spWrite b, bs)
  | 0x56 => .ok (.spFlush, bs)
  | 0x57 => .ok (.spProcessRx, bs)
  | 0x58 => .ok (.spIntrRx, bs)
  | 0x59 => .ok (.spProcessTx, bs)
  | 0x5A => .ok (.spIntrTx, bs)
  | 0x5B => .ok (.spOverflow, bs)
  | 0x5C => .ok (.spClearOverflow, bs)
  | 0x60 => .ok (.adcProcess, bs)
  | 0x61 => .ok (.adcValue, bs)
  | 0x62 => .ok (.adcStart, bs)
  | 0x63 => .ok (.adcNext, bs)
  | 0x64 => takeByte bs fun i bs => .ok (.adcValueOf i.toNat, bs)
  | 0x70 => takeByte bs fun b bs => .ok (.cfPushData b, bs)
  | 0x71 => takeByte bs fun i bs => .ok (.cfPayload i.toNat, bs)
  | 0x80 => takeByte bs fun c bs => takeLe P.timeBytes bs fun on bs =>
      takeLe P.timeBytes bs fun off bs => .ok (.blSignal c.toNat on off, bs)
  | 0x81 => .ok (.blProcess, bs)
  | 0x90 => .ok (.pump, bs)
  | 0x91 => takeLe P.timeBytes bs fun t bs => .ok (.wait t, bs)
  | 0xA0 => .ok (.cli, bs)
  | 0xA1 => .ok (.sei, bs)
  | 0xE0 => takeLe P.timeBytes bs fun n bs => .ok (.envTick n, bs)
  | 0xE1 => takeByte bs fun d bs => takeFlags bs fun ovf fe bs => .ok (.envRx d ovf fe, bs)
  | 0xE2 => .ok (.envTxDone, bs)
  | 0xE3 => takeLe 2 bs fun v bs => .ok (.envAdcDone v, bs)
  | 0xEF => .ok (.envReset, bs)
  | _ => .error .opcode

/-- The operation at the head of the bytes and the bytes after its word (R91); refused by name where the bytes spell
none (R103, R104). -/
def decode (P : Params) (bytes : List Byte) : Decoded :=
  match bytes with
  | [] => .error .truncated
  | op :: bs =>
    match decodeOperands P op.toNat bs with
    | .ok (i, rest) => if i.wellFormed P then .ok (i, rest) else .error .range
    | .error e => .error e

/-- The length of a word, found from its opcode byte alone (R91); 1 for a byte that is no opcode. -/
def opLength (P : Params) (op : Byte) : Nat :=
  match op.toNat with
  | 0x10 => 3
  | 0x11 | 0x12 | 0x13 | 0x14 | 0x15 => 2
  | 0x30 => 2 + P.timeBytes
  | 0x31 | 0x32 | 0x33 | 0x38 | 0x39 | 0x40 => 2
  | 0x50 => 6
  | 0x55 | 0x64 | 0x70 | 0x71 => 2
  | 0x80 => 2 + 2 * P.timeBytes
  | 0x91 => 1 + P.timeBytes
  | 0xE0 => 1 + P.timeBytes
  | 0xE1 | 0xE3 => 3
  | _ => 1

/-- The opcode byte of an operation (R95). -/
def Instr.opcode : Instr → Byte
  | .rbPush _ _ => 0x10
  | .rbPop _ => 0x11
  | .rbTop _ => 0x12
  | .rbEmpty _ => 0x13
  | .rbFull _ => 0x14
  | .rbSize _ => 0x15
  | .clkProcess => 0x20
  | .clkNow => 0x21
  | .dlNew _ _ => 0x30
  | .dlElapsed _ => 0x31
  | .dlRestart _ => 0x32
  | .dlCancel _ => 0x33
  | .swNew _ => 0x38
  | .swElapsedTime _ => 0x39
  | .btfCheck _ => 0x40
  | .spInit _ _ => 0x50
  | .spEmpty => 0x51
  | .spTxEmpty => 0x52
  | .spTxReady => 0x53
  | .spRead => 0x54
  | .spWrite _ => 0x55
  | .spFlush => 0x56
  | .spProcessRx => 0x57
  | .spIntrRx => 0x58
  | .spProcessTx => 0x59
  | .spIntrTx => 0x5A
  | .spOverflow => 0x5B
  | .spClearOverflow => 0x5C
  | .adcProcess => 0x60
  | .adcValue => 0x61
  | .adcStart => 0x62
  | .adcNext => 0x63
  | .adcValueOf _ => 0x64
  | .cfPushData _ => 0x70
  | .cfPayload _ => 0x71
  | .blSignal _ _ _ => 0x80
  | .blProcess => 0x81
  | .pump => 0x90
  | .wait _ => 0x91
  | .cli => 0xA0
  | .sei => 0xA1
  | .envTick _ => 0xE0
  | .envRx _ _ _ => 0xE1
  | .envTxDone => 0xE2
  | .envAdcDone _ => 0xE3
  | .envReset => 0xEF

/-- The byte of a ring operand (R120). -/
def RingSel.byte : RingSel → Byte
  | .rx => 0
  | .tx => 1

/-- The byte of a `bool` operand (R93). -/
def boolByte (b : Bool) : Byte := if b then 1 else 0

/-- The `flags` byte of `ENV.RX` (R100). -/
def flagsByte (ovf fe : Bool) : Byte := BitVec.ofNat 8 (ovf.toNat + 2 * fe.toNat)

/-- The operand bytes of an operation, in the order R95 lists them (R91, R93). -/
def Instr.operands (P : Params) : Instr → List Byte
  | .rbPush r v => [r.byte, v]
  | .rbPop r => [r.byte]
  | .rbTop r => [r.byte]
  | .rbEmpty r => [r.byte]
  | .rbFull r => [r.byte]
  | .rbSize r => [r.byte]
  | .clkProcess => []
  | .clkNow => []
  | .dlNew d t => BitVec.ofNat 8 d :: leBytes P.timeBytes t
  | .dlElapsed d => [BitVec.ofNat 8 d]
  | .dlRestart d => [BitVec.ofNat 8 d]
  | .dlCancel d => [BitVec.ofNat 8 d]
  | .swNew w => [BitVec.ofNat 8 w]
  | .swElapsedTime w => [BitVec.ofNat 8 w]
  | .btfCheck b => [b]
  | .spInit baud a => leBytes 4 baud.toNat ++ [boolByte a]
  | .spEmpty => []
  | .spTxEmpty => []
  | .spTxReady => []
  | .spRead => []
  | .spWrite b => [b]
  | .spFlush => []
  | .spProcessRx => []
  | .spIntrRx => []
  | .spProcessTx => []
  | .spIntrTx => []
  | .spOverflow => []
  | .spClearOverflow => []
  | .adcProcess => []
  | .adcValue => []
  | .adcStart => []
  | .adcNext => []
  | .adcValueOf i => [BitVec.ofNat 8 i]
  | .cfPushData b => [b]
  | .cfPayload i => [BitVec.ofNat 8 i]
  | .blSignal c on off => BitVec.ofNat 8 c :: (leBytes P.timeBytes on ++ leBytes P.timeBytes off)
  | .blProcess => []
  | .pump => []
  | .wait t => leBytes P.timeBytes t
  | .cli => []
  | .sei => []
  | .envTick n => leBytes P.timeBytes n
  | .envRx d ovf fe => [d, flagsByte ovf fe]
  | .envTxDone => []
  | .envAdcDone v => leBytes 2 v
  | .envReset => []

/-- The operation word of an operation: its opcode byte, then its operand bytes (R91). -/
def encode (P : Params) (i : Instr) : List Byte := i.opcode :: i.operands P

/-- The bytes of the word whose `nbits` table bits are `w`, bit 0 the lowest bit of the first byte; operand bytes the
table gives no bits are 0. -/
def wordBytes (P : Params) (nbits w : Nat) : List Byte :=
  let given := leBytes ((nbits + 7) / 8) (w % 2 ^ nbits)
  let n := opLength P (given.headD 0)
  (given ++ List.replicate n 0).take n

/-- The operation the decoder reads from the word whose table bits are `w`, under the reference parameters the table's
lengths are written for. -/
def decodeTableWord (nbits w : Nat) : Option Instr :=
  match decode Params.p0 (wordBytes Params.p0 nbits w) with
  | .ok (i, _) => some i
  | .error _ => none

end Sys2Proof
end

