-- ==== Sys2Proof/Machine/State.lean ====
section
/-! DEFINITION. The state of the block: every field that 10_state.md gives it, the place where the foreground stands
inside a composite operation (R10, R106), and the model's own fields, which INVENTORY.md lists as such. Plain data. -/

namespace Sys2Proof.Machine

/-- An instance of FixedRingBuffer (R21): slots, cursors and count. Its capacity is a parameter. -/
structure Ring where
  buf : List Byte
  head : Nat
  tail : Nat
  count : Nat
deriving DecidableEq, Repr

/-- AsyncSerialPort (R23 to R26). `inited` says that `SP.INIT` has been issued since reset (R177, R301). -/
structure Port where
  rx : Ring
  tx : Ring
  loss : Nat
  baud : Nat
  asyncTx : Bool
  inited : Bool
  /-- `sp.filter.progress` (R26). -/
  progress : Nat
deriving DecidableEq, Repr

/-- SoftClock (R28). `writes` is the model's own: how often the handler has written the tally (log 28). -/
structure Clock where
  /-- `clk.overflow_count`. -/
  tally : Nat
  writes : Nat
deriving DecidableEq, Repr

/-- A Deadline (R29). `made` says that `DL.NEW` has constructed it (U3, log 12). -/
structure Deadline where
  base : Nat
  duration : Nat
  cancelled : Bool
  made : Bool
deriving DecidableEq, Repr

/-- A Stopwatch (R30). `made` says that `SW.NEW` has constructed it (U3, log 12). -/
structure Stopwatch where
  base : Nat
  made : Bool
deriving DecidableEq, Repr

/-- The two states of CommandFramer (R31). -/
inductive FramerSt where
  | idle
  | awaitingPayload
deriving DecidableEq, Repr

/-- CommandFramer (R31). `ready` says that a payload has been stored since reset (U4, log 13). -/
structure Framer where
  st : FramerSt
  payload : Byte
  ready : Bool
  deadline : Deadline
deriving DecidableEq, Repr

/-- RoundRobinADC (R32). -/
structure Scanner where
  cur : Nat
  inProgress : Bool
  latest : List Nat
  valid : List Bool
deriving DecidableEq, Repr

/-- The level of the output line `bl.out` (R33). -/
inductive Level where
  | low
  | high
deriving DecidableEq, Repr

/-- BlinkSignaller (R33). -/
structure Blinker where
  remaining : Nat
  onDur : Nat
  offDur : Nat
  active : Bool
  phaseStart : Nat
  out : Level
deriving DecidableEq, Repr

/-- A received frame waiting in the UART (R48). -/
structure Frame where
  data : Byte
  ovf : Bool
  fe : Bool
deriving DecidableEq, Repr

/-- The peripheral state the block observes (R46 to R51). -/
structure Periph where
  cnt : Nat
  tovPending : Bool
  rxFrame : Option Frame
  txEmpty : Bool
  dreIe : Bool
  adcReady : Bool
  adcBusy : Option Nat
  adcResult : Nat
deriving DecidableEq, Repr

/-- The three interrupt handlers (R266): ISR_TOV, ISR_RXC, ISR_DRE. -/
inductive Handler where
  | tov
  | rxc
  | dre
deriving DecidableEq, Repr

/-- The processor state the block depends on (R52). `cpu.in_isr` is "handler is not none". -/
structure Cpu where
  gie : Bool
  handler : Option Handler
deriving DecidableEq, Repr

/-- The events of CommandFramer (R97, R226). -/
inductive Event where
  | cmd (b : Byte)
  | pending
  | bad
  | extReady
deriving DecidableEq, Repr

/-- What an operation returns (R94). -/
inductive Result where
  | none
  | bool (b : Bool)
  | byte (b : Byte)
  | time (t : Nat)
  | count (n : Nat)
  | loss (n : Nat)
  | sample (v : Nat)
  | event (e : Event)
deriving DecidableEq, Repr

/-- The conditions of R261 after which the block goes on. -/
inductive Condition where
  | rxHardwareOverflow
  | rxBufferFull
  | framingError
  | payloadTimeout
deriving DecidableEq, Repr

/-- The histories that a reset does not clear (R300): what the line carried and how many boot requests were signalled
before the last reset, and the conditions raised since the start of the run (R261). -/
structure Past where
  line : List Byte
  boots : Nat
  conditions : List Condition
deriving DecidableEq, Repr

/-- An environment step (R46, R48, R49, R51). -/
inductive EnvEvent where
  | tick
  | rx (data : Byte) (ovf : Bool) (fe : Bool)
  | txDone
  | adcDone (v : Nat)
deriving DecidableEq, Repr

/-- One move in a gap between two steps (R10, R68): an environment step, a point where a pending interrupt is served before
the next move, or HOST's reset (R5, R300; log 3). -/
inductive Move where
  | event (e : EnvEvent)
  | irq
  | reset
deriving DecidableEq, Repr

/-- Where a `CLK.NOW` stands (R137), with its locals. `n2rest` is inside a tally read of several parts (R66): the value
seen by the first part, the count of tally writes then, and the parts still to read. The last argument of `n4` and `n5` is
the second counter sample. -/
inductive NowPhase where
  | n1
  | n2 (c1 : Nat)
  | n2rest (c1 : Nat) (o : Nat) (writes : Nat) (left : Nat)
  | n3 (c1 : Nat) (o : Nat)
  | n4 (c1 : Nat) (o : Nat) (c2 : Nat)
  | n5 (o : Nat) (c2 : Nat)
deriving DecidableEq, Repr

/-- The parts of `PUMP` (R250): PU1 to PU5. -/
inductive PumpPart where
  | rx
  | tx
  | adcPoll
  | adcNext
  | blink
deriving DecidableEq, Repr

/-- What follows a `PUMP`: its caller's return, or the loop of `WAIT` (R251) with its locals. -/
inductive AfterPump where
  | ret
  | wait (base : Nat) (duration : Nat)
deriving DecidableEq, Repr

/-- What an operation does with the clock value it reads. -/
inductive AfterNow where
  | clkNow
  | dlNew (d : Nat) (duration : Nat)
  | dlElapsed (d : Nat)
  | dlRestart (d : Nat)
  | swNew (w : Nat)
  | swElapsed (w : Nat)
  | cfArm
  | cfPayload (b : Byte)
  | blSignal
  | blProcess
  | pumpBlink (todo : List PumpPart) (k : AfterPump)
  | waitBase (duration : Nat)
  | waitTest (base : Nat) (duration : Nat)
deriving DecidableEq, Repr

/-- Where the foreground stands: between operations, or before a labelled step of the operation it is inside (R10). The
names are the labels of R137, R181, R182, R183 and R250; `blArm` stands before the writes of `BL.SIGNAL` that come before
its clock read, which carry no label (R241, log 30). -/
inductive Fg where
  | idle
  | now (ph : NowPhase) (k : AfterNow)
  | rd1
  | rd2a
  | rd2b
  | rd2c
  | rd3
  | w1a (b : Byte)
  | w1b (b : Byte)
  | w2 (b : Byte)
  | w3 (b : Byte)
  | w4 (b : Byte)
  | w5
  | f1
  | f2
  | pump (todo : List PumpPart) (k : AfterPump)
  | blArm (count : Nat) (on : Nat) (off : Nat)
deriving DecidableEq, Repr

/-- The state of the block. -/
structure State where
  /-- The parameters (R6). -/
  cfg : Params
  sp : Port
  clk : Clock
  dl : List Deadline
  sw : List Stopwatch
  cf : Framer
  adc : Scanner
  bl : Blinker
  hw : Periph
  cpu : Cpu
  /-- `boot_request` (R27). -/
  bootRequest : Nat
  /-- `line_out` (R49). -/
  lineOut : List Byte
  /-- Where the foreground stands inside a composite operation (R10). -/
  fg : Fg
  /-- Model's own: what the last completed foreground operation returned (R94, log 19). -/
  result : Result
  /-- Model's own: what the last `SP.INTR_RX` returned, which its callers drop (R185, log 19). -/
  isrResult : Result
  /-- Model's own: the operation words still to be issued (R2, R91, log 2). -/
  issue : List Byte
  /-- Model's own: what the environment and HOST do in the coming gaps (R10, R68, log 3). -/
  env : List (List Move)
  /-- Model's own: how many free values have been drawn (log 8). -/
  draws : Nat
  /-- Model's own: the ticks since reset, `ticks(t)` of R139 (log 28). -/
  ticks : Nat
  /-- Model's own: histories (R300, log 9). -/
  past : Past
deriving DecidableEq, Repr

/-- Why the model faults. Every fault is the model's (R263), safe: the source gives the execution no meaning, and no
claim about a later state can be drawn from it. -/
inductive Fault where
  /-- `RB.POP` or `RB.TOP` on an empty ring (R122, R123, U1, U2), also step RD3 of `SP.READ` in a state no run reaches. -/
  | popEmpty
  /-- `ADC.VALUE` or `ADC.VALUE_OF` on a channel with no completed conversion (R213, R215, U5). -/
  | adcValueBeforeCompletion
  /-- `DL.ELAPSED` or `DL.RESTART` on a Deadline that `DL.NEW` has not constructed (R55, R152, U3). -/
  | unconstructedDeadline
  /-- `SW.ELAPSED_TIME` on a Stopwatch that `SW.NEW` has not constructed (R55, U3). -/
  | unconstructedStopwatch
  /-- `CF.PAYLOAD` before the first `ExtReady` (R228, U4). -/
  | payloadUnset
deriving DecidableEq, Repr

/-- Why the model refuses. Every refusal is safe: the spec gives the word or its use no meaning (R263). -/
inductive Refusal where
  /-- An instruction with no meaning yet, raised by `exec`. -/
  | notModelled (mnemonic : String)
  /-- The bytes spell no operation (R103, R104), raised by `step`. -/
  | invalidWord (e : DecodeError)
  /-- An operand outside its index space or legal set (R62, R36, R104): an instance or channel that the state does not hold,
  or a baud rate of 0. -/
  | operandRange
  /-- The operation is not legal in this context (R281). -/
  | wrongContext
  /-- The foreground is inside another operation: FG issues one at a time (R5, R68, log 22). -/
  | foregroundBusy
  /-- A direct ring or filter access outside a critical section while a handler may touch it (R129, R312, U11). -/
  | unserialised
  /-- `SP.INIT` a second time (R177, U13). -/
  | alreadyInitialised
  /-- `SP.INTR_RX` with no frame waiting (R185, U12). -/
  | noFrame
  /-- `hw.send` while the transmitter is not ready (R49, U12), reached by no rule of the block. -/
  | sendNotReady
  /-- `ADC.START` or `ADC.NEXT` while a conversion is in flight (R211, R214, U10). -/
  | conversionInFlight
  /-- An environment event that is not enabled (R48, R49, R51), raised by the `ENV` operations. -/
  | eventNotEnabled
deriving DecidableEq, Repr

/-- What `exec` and `step` answer. -/
abbrev Answer := Host.Outcome State Fault Refusal

/-- An empty ring of capacity `n` (R55). The slots are unspecified: zero by log 7. -/
def Ring.empty (n : Nat) : Ring := { buf := List.replicate n 0, head := 0, tail := 0, count := 0 }

/-- A Deadline that `DL.NEW` has not constructed (R55: unspecified; zero by log 7). -/
def Deadline.unmade : Deadline := { base := 0, duration := 0, cancelled := false, made := false }

/-- A Stopwatch that `SW.NEW` has not constructed (R55: unspecified; zero by log 7). -/
def Stopwatch.unmade : Stopwatch := { base := 0, made := false }

/-- The block right after reset under parameters `P`: the table of R55. Fields that R55 calls unspecified hold the
values of logs 5, 6 and 7 (DESIGN CHOICE). No operation word is placed (log 2) and the environment is quiet. -/
def State.resetWith (P : Params) : State where
  cfg := P
  sp := { rx := Ring.empty P.nRx, tx := Ring.empty P.nTx, loss := 0, baud := P.baud, asyncTx := P.asyncTx,
          inited := false, progress := 0 }
  clk := { tally := 0, writes := 0 }
  dl := List.replicate P.nDl Deadline.unmade
  sw := List.replicate P.nSw Stopwatch.unmade
  cf := { st := .idle, payload := 0, ready := false,
          deadline := { base := 0, duration := P.payloadTimeout, cancelled := false, made := false } }
  adc := { cur := 0, inProgress := false, latest := List.replicate P.channels.length 0,
           valid := List.replicate P.channels.length false }
  bl := { remaining := 0, onDur := 0, offDur := 0, active := false, phaseStart := 0, out := .low }
  hw := { cnt := 0, tovPending := false, rxFrame := none, txEmpty := true, dreIe := false, adcReady := false,
          adcBusy := none, adcResult := 0 }
  cpu := { gie := false, handler := none }
  bootRequest := 0
  lineOut := []
  fg := .idle
  result := .none
  isrResult := .none
  issue := []
  env := []
  draws := 0
  ticks := 0
  past := { line := [], boots := 0, conditions := [] }

/-- The block right after reset, under the reference parameters P0 (R6, log 1). -/
def State.reset : State := State.resetWith Params.p0

end Sys2Proof.Machine
end

