-- ==== Sys2Proof/Machine/Flags.lean ====
section
/-! DEFINITION. The modular arithmetic of R8 and the flags and predicates of R35, R53 and R97. -/

namespace Sys2Proof.Machine

/-- `a +_N b` (R8). -/
def addMod (n a b : Nat) : Nat := (a + b) % 2 ^ n

/-- `a -_N b` (R8). -/
def subMod (n a b : Nat) : Nat := (a + (2 ^ n - b % 2 ^ n)) % 2 ^ n

/-- The SoftClock composite (R61, R96): tally in the high part, counter in the low part. -/
def wideTime (P : Params) (tally cnt : Nat) : Nat := tally * 2 ^ P.wCnt + cnt

/-- The strict elapsed test (R152): `(now - base) > duration`, unsigned, modulo `2^W_TIME` (R150). -/
def elapsed (P : Params) (now base duration : Nat) : Bool := decide (duration < subMod P.wTime now base)

/-- `R.empty` (R35). -/
def Ring.isEmpty (R : Ring) : Bool := R.count == 0

/-- `R.full` (R35) for capacity `n`. -/
def Ring.isFull (n : Nat) (R : Ring) : Bool := R.count == n

/-- The abstract sequence `R.q` of R22, oldest first: slot `(head + j) mod N` for `j` below `count`. A slot outside the
buffer, which only an unreachable ring names, reads as 0 (log 26). -/
def Ring.q (n : Nat) (R : Ring) : List Byte :=
  (List.range R.count).map fun j => R.buf.getD ((R.head + j) % n) 0

/-- `hw.rx_empty` (R48). -/
def Periph.rxEmpty (h : Periph) : Bool := h.rxFrame.isNone

/-- `cpu.in_isr` (R52). -/
def Cpu.inIsr (c : Cpu) : Bool := c.handler.isSome

/-- The request of an interrupt source (R53, R266). -/
def State.request (s : State) : Handler → Bool
  | .tov => s.hw.tovPending
  | .rxc => s.cfg.rxIrq && !s.hw.rxEmpty
  | .dre => s.hw.dreIe && s.hw.txEmpty

/-- The set of requests (R53). -/
def State.requests (s : State) : List Handler := [Handler.tov, .rxc, .dre].filter s.request

/-- Interrupts may be taken (R267): enabled and no handler running. -/
def State.mayTake (s : State) : Bool := s.cpu.gie && !s.cpu.inIsr

/-- The foreground stands between operations. -/
def Fg.isIdle : Fg → Bool
  | .idle => true
  | .now _ _ => false
  | .rd1 | .rd2a | .rd2b | .rd2c | .rd3 => false
  | .w1a _ | .w1b _ | .w2 _ | .w3 _ | .w4 _ | .w5 => false
  | .f1 | .f2 => false
  | .pump _ _ => false
  | .blArm _ _ _ => false

/-- A direct ring access from the foreground would be unserialised (R129, R312): outside a critical section while a
handler may touch the rings. Every stretch with `cpu.gie = 0` counts as a critical section, the one from reset to the
first `SEI` too, which no `CLI` opened (R13, U11; DESIGN CHOICE, log 31). -/
def State.unserialised (s : State) : Bool := s.cpu.gie && (s.cfg.rxIrq || s.hw.dreIe)

/-- How many parts a read of the tally takes (R66): `ceil(W_OVF / ATOMIC_W)`. -/
def tallyParts (P : Params) : Nat := (P.wOvf + P.atomicW - 1) / P.atomicW

/-- N4 (R137, R141): the two counter samples do not make the reading retry. -/
def sampleAccepted (P : Params) (c1 c2 : Nat) : Bool :=
  if P.retryOnEqual then decide (c1 < c2) else decide (c1 ≤ c2)

/-- The 16-bit number of an event (R97). -/
def Event.number : Event → BitVec 16
  | .cmd b => b.zeroExtend 16
  | .pending => 0x0100
  | .bad => 0x0101
  | .extReady => 0x0102

/-- The code of a condition (R261). -/
def Condition.code : Condition → Nat
  | .rxHardwareOverflow => 1
  | .rxBufferFull => 2
  | .framingError => 3
  | .payloadTimeout => 4

/-- The code of a fault that R261 lists as a condition. -/
def Fault.code : Fault → Option Nat
  | .popEmpty => some 5
  | .adcValueBeforeCompletion => some 6
  | .unconstructedDeadline => none
  | .unconstructedStopwatch => none
  | .payloadUnset => none

/-- The foreground waits for the environment: its next steps would only repeat the spin it is in (R141, R181, R182,
R183, R251), so that without an environment step or a handler it goes nowhere (log 4). -/
def State.awaits (s : State) : Bool :=
  match s.fg with
  | .now (.n2 c1) _ => s.cfg.retryOnEqual && s.hw.cnt == c1
  | .now (.n2rest c1 _ _ _) _ => s.cfg.retryOnEqual && s.hw.cnt == c1
  | .now (.n3 c1 _) _ => s.cfg.retryOnEqual && s.hw.cnt == c1
  | .now (.n4 c1 _ c2) _ => s.cfg.retryOnEqual && c2 == c1 && s.hw.cnt == c1
  | .now .n1 (.waitTest _ _) => !s.cfg.retryOnEqual
  | .rd1 => s.sp.rx.isEmpty && s.hw.rxEmpty
  | .w1a _ => !s.hw.txEmpty
  | .w2 _ => s.sp.tx.isFull s.cfg.nTx && !s.hw.txEmpty
  | .w3 _ => s.sp.tx.isFull s.cfg.nTx && !s.hw.txEmpty
  | .f1 => !s.sp.tx.isEmpty && !s.hw.txEmpty
  | .f2 => !s.sp.tx.isEmpty && !s.hw.txEmpty
  | .idle | .now .n1 _ | .now (.n5 _ _) _ | .rd2a | .rd2b | .rd2c | .rd3 | .w1b _ | .w4 _ | .w5 | .pump _ _
  | .blArm _ _ _ => false

end Sys2Proof.Machine
end

