-- ==== Sys2Proof/Machine/Ops.lean ====
section
/-! DEFINITION. The named operations over storage, peripherals and interrupts that the meanings share: the ring
operations of R121 to R123, the peripheral operations of R46 to R51, the handler bodies of R136, R185 and R187, taking an
interrupt (R267) and returning from one (R270). -/

namespace Sys2Proof.Machine

/-! ### Rings -/

/-- `push(v)` on a ring of capacity `n` (R121): the ring after it and whether the value was stored. -/
def ringPush (n : Nat) (v : Byte) (R : Ring) : Ring × Bool :=
  if R.isFull n then (R, false)
  else ({ R with buf := R.buf.set R.tail v, tail := (R.tail + 1) % n, count := R.count + 1 }, true)

/-- The element `pop()` would return (R123), on a ring that is not empty. -/
def Ring.front (R : Ring) : Byte := R.buf.getD R.head 0

/-- `pop()` on a ring of capacity `n` (R122): the value and the ring after it, none when empty. -/
def ringPop (n : Nat) (R : Ring) : Option (Byte × Ring) :=
  if R.isEmpty then none
  else some (R.front, { R with head := (R.head + 1) % n, count := R.count - 1 })

/-- `top()` (R123): the oldest element, none when empty. -/
def ringTop (R : Ring) : Option Byte := if R.isEmpty then none else some R.front

/-! ### Histories and results -/

/-- Records a condition in the history (R261); nothing else happens (R260). -/
def raise (c : Condition) (s : State) : State :=
  { s with past := { s.past with conditions := s.past.conditions ++ [c] } }

/-- Counts a data loss (R24, R185): `sp.loss +_W_LOSS 1`, and the condition occurs. -/
def countLoss (c : Condition) (s : State) : State :=
  raise c { s with sp := { s.sp with loss := addMod s.cfg.wLoss s.sp.loss 1 } }

/-- A foreground operation ends with a result (R94). -/
def finish (r : Result) (s : State) : State := { s with fg := .idle, result := r }

/-! ### Boot trigger filter -/

/-- The match progress after a byte that does not match (R167; U21 and log 18 for a matcher that retries). -/
def progressAfterMismatch (P : Params) (b : Byte) : Nat :=
  if P.matcherRetries && P.bootSeq.head? == some b then 1 else 0

/-- `check(b)` (R166): progress advances on the expected byte; a full match signals and starts again. -/
def filterByte (b : Byte) (s : State) : State :=
  let p :=
    if s.cfg.bootSeq[s.sp.progress]? = some b then s.sp.progress + 1 else progressAfterMismatch s.cfg b
  if p = s.cfg.bootSeq.length then
    { s with sp := { s.sp with progress := 0 }, bootRequest := s.bootRequest + 1 }
  else { s with sp := { s.sp with progress := p } }

/-! ### Serial port -/

/-- `hw.send(b)` (R49), for a transmitter that is ready. -/
def hwSend (b : Byte) (s : State) : State :=
  { s with hw := { s.hw with txEmpty := false }, lineOut := s.lineOut ++ [b] }

/-- The transmit step that R186 and T1 of R187 share: if the ring is not empty and the hardware is ready, one byte is
popped and sent. -/
def drainOne (s : State) : State :=
  if s.hw.txEmpty then
    match ringPop s.cfg.nTx s.sp.tx with
    | some (b, R) => hwSend b { s with sp := { s.sp with tx := R } }
    | none => s
  else s

/-- I5 to I7 of R185: the byte passes the filter and is pushed; a full ring drops and counts it. -/
def bufferByte (b : Byte) (s : State) : State :=
  let s1 := filterByte b s
  match ringPush s1.cfg.nRx b s1.sp.rx with
  | (R, true) => { s1 with sp := { s1.sp with rx := R } }
  | (_, false) => countLoss .rxBufferFull s1

/-- `intr_rx()` on a waiting frame (R185): the frame is consumed, an overflow is counted, a framing error discards the
byte and returns false, any other byte is buffered and true is returned. -/
def intrRx (f : Frame) (s : State) : State :=
  let s1 := { s with hw := { s.hw with rxFrame := none } }
  let s2 := if f.ovf then countLoss .rxHardwareOverflow s1 else s1
  if f.fe then { raise .framingError s2 with isrResult := .bool false }
  else { bufferByte f.data s2 with isrResult := .bool true }

/-- `process_rx()` (R184): if the hardware has a frame, `intr_rx()`. -/
def processRx (s : State) : State :=
  match s.hw.rxFrame with
  | some f => intrRx f s
  | none => s

/-- `intr_tx()` (R187): send if possible, then disarm the DRE interrupt if the ring is empty. -/
def intrTx (s : State) : State :=
  let s1 := drainOne s
  if s1.sp.tx.isEmpty then { s1 with hw := { s1.hw with dreIe := false } } else s1

/-! ### Clock -/

/-- `CLK.PROCESS` (R136): the tally counts one overflow. -/
def bumpTally (s : State) : State :=
  { s with clk := { tally := addMod s.cfg.wOvf s.clk.tally 1, writes := s.clk.writes + 1 } }

/-- `ENV.TICK` (R46): the counter advances, and its wrap makes TOV pending (R47). -/
def counterTick (s : State) : State :=
  let c := addMod s.cfg.wCnt s.hw.cnt 1
  { s with hw := { s.hw with cnt := c, tovPending := s.hw.tovPending || c == 0 }, ticks := s.ticks + 1 }

/-! ### Analog-to-digital scanner -/

/-- `hw.adc_start(ch)` and the flag of the current slot (R51, R211). -/
def beginConversion (ch : Nat) (s : State) : State :=
  { s with hw := { s.hw with adcReady := false, adcBusy := some ch }, adc := { s.adc with inProgress := true } }

/-- The current slot's completion (R212). -/
def storeSample (s : State) : State :=
  { s with adc := { s.adc with latest := s.adc.latest.set s.adc.cur s.hw.adcResult,
                               valid := s.adc.valid.set s.adc.cur true, inProgress := false } }

/-- R212: a conversion has completed and has not been reported. -/
def State.sampleReady (s : State) : Bool := s.adc.inProgress && s.hw.adcReady

/-- `ADC.PROCESS` (R212): the state after it and its result. -/
def adcPoll (s : State) : State × Bool :=
  if s.sampleReady then (storeSample s, true) else (s, false)

/-- `ADC.START` (R211): refused while a conversion is in flight; else the current channel is started. -/
def startConversion (s : State) : Answer :=
  if s.adc.inProgress then .refused .conversionInFlight
  else
    match s.cfg.channels[s.adc.cur]? with
    | some c => .next (beginConversion c.ch s)
    | none => .refused .operandRange

/-- `ADC.NEXT` (R214): the index advances, wrapping at the list length, and its channel is started. -/
def startNextConversion (s : State) : Answer :=
  if s.adc.inProgress then .refused .conversionInFlight
  else startConversion { s with adc := { s.adc with cur := (s.adc.cur + 1) % s.cfg.channels.length } }

/-! ### Blink signaller -/

/-- The phase change of `BL.PROCESS` at clock value `t` (R242), for `remaining` not 0. -/
def blinkAt (t : Nat) (s : State) : State :=
  if s.bl.active then
    if elapsed s.cfg t s.bl.phaseStart s.bl.onDur then
      { s with bl := { s.bl with out := .low, active := false, phaseStart := t, remaining := s.bl.remaining - 1 } }
    else s
  else
    if elapsed s.cfg t s.bl.phaseStart s.bl.offDur then
      { s with bl := { s.bl with out := .high, active := true, phaseStart := t } }
    else s

/-! ### Interrupts -/

/-- Which request is taken next (R267, R271): none unless interrupts may be taken; of several, a free choice. -/
def chooseIrq (s : State) : Option Handler :=
  if s.mayTake then
    match s.requests with
    | [] => none
    | [h] => some h
    | hs => hs[Config.irqChoice s.draws % hs.length]?
  else none

/-- Taking an interrupt (R267): interrupts off, the handler runs, and TOV's pending flag is cleared. -/
def takeIrq (h : Handler) (s : State) : State :=
  { s with cpu := { gie := false, handler := some h },
           hw := { s.hw with tovPending := s.hw.tovPending && h != .tov }, draws := s.draws + 1 }

/-- Return from a handler (R270): interrupts on, no handler runs. -/
def returnIrq (s : State) : State := { s with cpu := { gie := true, handler := none } }

/-- The body of a handler (R266). -/
def handlerBody : Handler → State → State
  | .tov => bumpTally
  | .rxc => processRx
  | .dre => intrTx

/-- A handler's whole run: entry, body, return (R267, R270). -/
def runHandler (h : Handler) (s : State) : State := returnIrq (handlerBody h (takeIrq h s))

/-- One pending request is served, if one may be taken. -/
def serve (s : State) : State :=
  match chooseIrq s with
  | some h => runHandler h s
  | none => s

/-- Prompt service (R268): handlers run until no request is true. Three rounds are enough, since a handler makes its own
request false and no other true. -/
def serveAll (s : State) : State := serve (serve (serve s))

/-! ### Environment -/

/-- Whether an environment step is enabled (R46, R48, R49, R51, R104). -/
def EnvEvent.enabled (s : State) : EnvEvent → Bool
  | .tick => true
  | .rx _ _ _ => s.hw.rxEmpty
  | .txDone => !s.hw.txEmpty
  | .adcDone v => s.hw.adcBusy.isSome && decide (v < 2 ^ s.cfg.wAdc)

/-- The effect of an environment step (R46, R48, R49, R51). -/
def EnvEvent.apply (s : State) : EnvEvent → State
  | .tick => counterTick s
  | .rx d ovf fe => { s with hw := { s.hw with rxFrame := some ⟨d, ovf, fe⟩ } }
  | .txDone => { s with hw := { s.hw with txEmpty := true } }
  | .adcDone v => { s with hw := { s.hw with adcResult := v, adcReady := true, adcBusy := none } }

/-- An environment step of a schedule: one that is not enabled does not happen (log 27). -/
def envStep (e : EnvEvent) (s : State) : State := if e.enabled s then e.apply s else s

/-! ### Reset -/

/-- A free level. -/
def freeLevel (draw : Nat) : Level := if Config.freeLevel draw then .high else .low

/-- A Deadline with free fields, not constructed (R55, U3). -/
def freeDeadline (P : Params) (draw i : Nat) : Deadline :=
  { base := Config.freeTime draw (2 * i) % 2 ^ P.wTime, duration := Config.freeTime draw (2 * i + 1) % 2 ^ P.wTime,
    cancelled := Config.freeFlag draw i, made := false }

/-- The blink fields after a reset: `remaining` 0, the others free (R55). -/
def freeBlinker (P : Params) (draw : Nat) : Blinker :=
  { remaining := 0, onDur := Config.freeTime draw (4 * P.nDl) % 2 ^ P.wTime,
    offDur := Config.freeTime draw (4 * P.nDl + 1) % 2 ^ P.wTime, active := Config.freeFlag draw P.nDl,
    phaseStart := Config.freeTime draw (4 * P.nDl + 2) % 2 ^ P.wTime, out := freeLevel draw }

/-- `ENV.RESET` (R300): every field takes its value of R55, and the fields R55 calls unspecified take free values; the
operation in progress is abandoned. What agents still issue and what the environment still does are not the block's
fields and stay; the histories are kept (log 9). -/
def hardwareReset (s : State) : State :=
  let P := s.cfg
  let r := State.resetWith P
  { r with
    sp := { r.sp with
      rx := { r.sp.rx with buf := List.ofFn fun i : Fin P.nRx => Config.freeByte s.draws (i.val + 1) },
      tx := { r.sp.tx with buf := List.ofFn fun i : Fin P.nTx => Config.freeByte s.draws (P.nRx + i.val + 1) } },
    dl := List.ofFn fun i : Fin P.nDl => freeDeadline P s.draws i.val,
    sw := List.ofFn fun i : Fin P.nSw =>
      { base := Config.freeTime s.draws (4 * P.nDl + 4 + i.val) % 2 ^ P.wTime, made := false },
    cf := { r.cf with
      payload := Config.freeByte s.draws 0,
      deadline := { r.cf.deadline with base := Config.freeTime s.draws (4 * P.nDl + 3) % 2 ^ P.wTime } },
    adc := { r.adc with
      latest := List.ofFn fun i : Fin P.channels.length => Config.freeSample s.draws i.val % 2 ^ P.wAdc },
    bl := freeBlinker P s.draws,
    hw := { r.hw with
      cnt := Config.freeCounter s.draws % 2 ^ P.wCnt,
      adcResult := Config.freeAdcResult s.draws % 2 ^ P.wAdc },
    issue := s.issue,
    env := s.env,
    draws := s.draws + 1,
    past := { line := s.past.line ++ s.lineOut, boots := s.past.boots + s.bootRequest,
              conditions := s.past.conditions } }

/-! ### Gaps -/

/-- One move of a gap. After a reset the foreground stands between operations: the one in progress is abandoned (R300). -/
def applyMove (s : State) : Move → State
  | .event e => envStep e s
  | .irq => serve s
  | .reset => hardwareReset s

/-- The moves of a gap, in order. -/
def applyMoves (g : List Move) (s : State) : State := g.foldl applyMove s

/-- A gap between two foreground steps (R10, R268): its moves, then every pending request is served. After a reset there is
none to serve, since `cpu.gie` is 0. -/
def gap (g : List Move) (s : State) : State := serveAll (applyMoves g s)

/-- `n` ticks, the interrupt mechanism applying between any two of them (R100). -/
def tickMany : Nat → State → State
  | 0, s => s
  | 1, s => counterTick s
  | n + 2, s => tickMany (n + 1) (serveAll (counterTick s))

end Sys2Proof.Machine
end

