-- ==== Sys2Proof/Machine/Operands.lean ====
section
/-! DEFINITION. Operand forms and contexts: the ring an operand selects (R120), and the context checks of R281 that every
meaning starts with. -/

namespace Sys2Proof.Machine

/-- The capacity of the ring an operand selects (R120). -/
def capacity (P : Params) : RingSel → Nat
  | .rx => P.nRx
  | .tx => P.nTx

/-- The ring an operand selects (R120). -/
def State.ring (s : State) : RingSel → Ring
  | .rx => s.sp.rx
  | .tx => s.sp.tx

/-- Writes the ring an operand selects. -/
def State.withRing (s : State) (R : Ring) : RingSel → State
  | .rx => { s with sp := { s.sp with rx := R } }
  | .tx => { s with sp := { s.sp with tx := R } }

/-- Context "foreground: yes, interrupt: no" of R281: refused in a handler, and while FG is inside another operation. -/
def inForeground (s : State) (answer : Answer) : Answer :=
  if s.cpu.inIsr then .refused .wrongContext
  else if s.fg.isIdle then answer
  else .refused .foregroundBusy

/-- Context "only inside handler `h`" of R281. -/
def inHandler (h : Handler) (s : State) (answer : Answer) : Answer :=
  if s.cpu.handler = some h then answer else .refused .wrongContext

/-- The context of `RB.*` and `BTF.CHECK` (R281): inside one of the handlers `hs`, or the foreground; there only serialised
(R129, R312, U11). -/
def inRingContext (hs : List Handler) (s : State) (answer : Answer) : Answer :=
  match s.cpu.handler with
  | some h => if h ∈ hs then answer else .refused .wrongContext
  | none =>
    if s.fg.isIdle then
      if s.unserialised then .refused .unserialised else answer
    else .refused .foregroundBusy

/-- The handlers whose bodies use the rings (R281). -/
def ringHandlers : List Handler := [.rxc, .dre]

/-- The result of a step that may be issued in either context goes to the caller in that context (log 19). -/
def deliver (r : Result) (s : State) : State :=
  if s.cpu.inIsr then { s with isrResult := r } else { s with result := r }

end Sys2Proof.Machine
end

