-- ==== Sys2Proof/Machine/Foreground.lean ====
section
/-! DEFINITION. Composite operations: the labelled steps of R137, R181, R182, R183 and R250 (one call of `fgStep` is one
labelled step, R10), and their run interleaved with the environment and the handlers. A label whose line touches only
the operation's own locals (the tests of RD2, W1, W3, F2, WT3 and PU4) is done in the step before it (log 4). Lines without
a label (R151 to R156, R227, R241, R242) are done in the step N5 of the clock reading they follow, or before its N1:
DESIGN CHOICE, log 30. -/

namespace Sys2Proof.Machine

/-- Step N1 of a `CLK.NOW` (R137): the first counter sample. -/
def sampleFirst (k : AfterNow) (s : State) : State := { s with fg := .now (.n2 s.hw.cnt) k }

/-- The parts of a `PUMP` unit (R250): PU1 and PU2, PU3 (which leads to PU4), PU5. -/
def pumpParts : PumpUnit → List PumpPart
  | .serial => [.rx, .tx]
  | .adc => [.adcPoll]
  | .blink => [.blink]

/-- A whole `PUMP` under the order `PUMP_ORDER` (R250). -/
def pumpAll (P : Params) : List PumpPart := P.pumpOrder.flatMap pumpParts

/-- What follows the parts of a `PUMP` still to do: the next part, or its end (its caller's return, or WT2). -/
def pumpGoOn (todo : List PumpPart) (k : AfterPump) (s : State) : State :=
  match todo with
  | [] =>
    match k with
    | .ret => finish .none s
    | .wait base duration => { s with fg := .now .n1 (.waitTest base duration) }
  | p :: ps => { s with fg := .pump (p :: ps) k }

/-- Stores a framer deadline's base and arms it (R227: "arm a payload deadline"). -/
def armFramer (t : Nat) (s : State) : State :=
  { s with cf := { s.cf with st := .awaitingPayload,
                             deadline := { s.cf.deadline with base := t, cancelled := false, made := true } } }

/-- A byte in AwaitingPayload at clock value `t` (R227): late, it is discarded and `Bad` returned; in time, it is the
payload. -/
def takePayload (t : Nat) (b : Byte) (s : State) : State :=
  let s1 := { s with cf := { s.cf with st := .idle } }
  if elapsed s.cfg t s.cf.deadline.base s.cfg.payloadTimeout then
    finish (.event .bad) (raise .payloadTimeout s1)
  else finish (.event .extReady) { s1 with cf := { s1.cf with payload := b, ready := true } }

/-- What an operation does with the clock value `t` that its `CLK.NOW` returned. These lines carry no label, so R10 gives
them no step: they are done in the step N5 of the clock reading, be it a write of a deadline's base, of the framer's state
or of `bl.out` (DESIGN CHOICE, log 30). Ticks and handlers may come between the sample N3 and that step. -/
def afterNow (t : Nat) (k : AfterNow) (s : State) : Answer :=
  match k with
  | .clkNow => .next (finish (.time t) s)
  | .dlNew d duration =>
    .next (finish .none { s with dl := s.dl.set d { base := t, duration := duration, cancelled := false, made := true } })
  | .dlElapsed d =>
    match s.dl[d]? with
    | some D => .next (finish (.bool (elapsed s.cfg t D.base D.duration)) s)
    | none => .refused .operandRange
  | .dlRestart d =>
    match s.dl[d]? with
    | some D => .next (finish .none { s with dl := s.dl.set d { D with base := t, cancelled := false } })
    | none => .refused .operandRange
  | .swNew w => .next (finish .none { s with sw := s.sw.set w { base := t, made := true } })
  | .swElapsed w =>
    match s.sw[w]? with
    | some W => .next (finish (.time (subMod s.cfg.wTime t W.base)) s)
    | none => .refused .operandRange
  | .cfArm => .next (finish (.event .pending) (armFramer t s))
  | .cfPayload b => .next (takePayload t b s)
  | .blSignal => .next (finish .none { s with bl := { s.bl with phaseStart := t } })
  | .blProcess => .next (finish .none (blinkAt t s))
  | .pumpBlink todo k => .next (pumpGoOn todo k (blinkAt t s))
  | .waitBase duration => .next { s with fg := .now .n1 (.waitTest t duration) }
  | .waitTest base duration =>
    if elapsed s.cfg t base duration then .next (finish .none s)
    else .next (pumpGoOn (pumpAll s.cfg) (.wait base duration) s)

/-- The last part of a tally read of several parts (R66): the value seen, unless a handler wrote the tally meanwhile; then
any value of its width (log 11). -/
def readTally (c1 o writes : Nat) (k : AfterNow) (s : State) : State :=
  if s.clk.writes = writes then { s with fg := .now (.n3 c1 o) k }
  else { s with fg := .now (.n3 c1 (Config.freeTally s.draws % 2 ^ s.cfg.wOvf)) k, draws := s.draws + 1 }

/-- A labelled step of `CLK.NOW` (R137): N1, N2 in its parts (R66), N3, N4, and N5 with what the operation does then. -/
def nowStep (ph : NowPhase) (k : AfterNow) (s : State) : Answer :=
  match ph with
  | .n1 => .next (sampleFirst k s)
  | .n2 c1 =>
    if tallyParts s.cfg ≤ 1 then .next { s with fg := .now (.n3 c1 s.clk.tally) k }
    else .next { s with fg := .now (.n2rest c1 s.clk.tally s.clk.writes (tallyParts s.cfg - 1)) k }
  | .n2rest c1 o writes left =>
    if left ≤ 1 then .next (readTally c1 o writes k s)
    else .next { s with fg := .now (.n2rest c1 o writes (left - 1)) k }
  | .n3 c1 o => .next { s with fg := .now (.n4 c1 o s.hw.cnt) k }
  | .n4 c1 o c2 => .next { s with fg := .now (if sampleAccepted s.cfg c1 c2 then .n5 o c2 else .n1) k }
  | .n5 o c2 => afterNow (wideTime s.cfg o c2) k s

/-- A part of `PUMP` (R250): PU1 to PU5, with the parts after it. -/
def pumpStep (p : PumpPart) (todo : List PumpPart) (k : AfterPump) (s : State) : Answer :=
  match p with
  | .rx => .next (pumpGoOn todo k (processRx s))
  | .tx => .next (pumpGoOn todo k (drainOne s))
  | .adcPoll =>
    match adcPoll s with
    | (s1, true) => .next (pumpGoOn (.adcNext :: todo) k s1)
    | (s1, false) => .next (pumpGoOn todo k s1)
  | .adcNext =>
    match startNextConversion s with
    | .next s1 => .next (pumpGoOn todo k s1)
    | .fault r => .fault r
    | .refused r => .refused r
  | .blink =>
    if s.bl.remaining = 0 then .next (pumpGoOn todo k s)
    else .next (sampleFirst (.pumpBlink todo k) s)

/-- The writes of `BL.SIGNAL` before its clock read (R241). The lines carry no label: they are one step, before N1 of the
clock read (DESIGN CHOICE, log 30). -/
def armBlink (count on off : Nat) (s : State) : State :=
  { s with bl := { s.bl with remaining := count, onDur := on, offDur := off, active := true, out := .high } }

/-- RD3 (R181): one byte is popped and returned. -/
def readByte (s : State) : Answer :=
  match ringPop s.cfg.nRx s.sp.rx with
  | some (b, R) => .next (finish (.byte b) { s with sp := { s.sp with rx := R } })
  | none => .fault .popEmpty

/-- One labelled step of the foreground (R10). -/
def fgStep (s : State) : Answer :=
  match s.fg with
  | .idle => .next s
  | .now ph k => nowStep ph k s
  | .rd1 => .next { s with fg := if s.sp.rx.isEmpty then .rd2a else .rd3 }
  | .rd2a => .next { s with cpu := { s.cpu with gie := false }, fg := .rd2b }
  | .rd2b => .next { processRx s with fg := .rd2c }
  | .rd2c => .next { s with cpu := { s.cpu with gie := true }, fg := .rd1 }
  | .rd3 => readByte s
  | .w1a b => .next { s with fg := if s.hw.txEmpty then .w1b b else .w1a b }
  | .w1b b => if s.hw.txEmpty then .next (finish .none (hwSend b s)) else .refused .sendNotReady
  | .w2 b => .next { s with fg := if s.sp.tx.isFull s.cfg.nTx then .w3 b else .w4 b }
  | .w3 b => .next { drainOne s with fg := .w2 b }
  | .w4 b => .next { s with sp := { s.sp with tx := (ringPush s.cfg.nTx b s.sp.tx).1 }, fg := .w5 }
  | .w5 => .next (finish .none { s with hw := { s.hw with dreIe := s.hw.dreIe || s.sp.asyncTx } })
  | .f1 => .next (if s.sp.tx.isEmpty then finish .none s else { s with fg := .f2 })
  | .f2 => .next { drainOne s with fg := .f1 }
  | .pump [] k => .next (pumpGoOn [] k s)
  | .pump (p :: todo) k => pumpStep p todo k s
  | .blArm count on off => .next { armBlink count on off s with fg := .now .n1 .blSignal }

/-- The most labelled steps that one machine step makes after the schedule `env` has run out (log 4). -/
def quietSteps : Nat := 32

/-- The foreground's run inside a composite operation. After each labelled step that does not end the operation there is
a gap (R10): its moves are the head of `env`, and then pending requests are served (R268). When `env` has run out the
environment is quiet, and the run pauses where the foreground waits for the environment; the operation stays in
progress, and a later machine step goes on with it (U14: the spin is unbounded). A reset among the moves of a gap
abandons the operation (R300): the foreground is then between operations, and the run ends. -/
def runFg : Nat → State → Answer
  | 0, s => fgStep s
  | n + 1, s =>
    match fgStep s with
    | .next s1 =>
      if s1.fg.isIdle then .next s1
      else
        match s1.env with
        | g :: gs => runFg n (gap g { s1 with env := gs })
        | [] => if (serveAll s1).awaits then .next (serveAll s1) else runFg n (serveAll s1)
    | .fault r => .fault r
    | .refused r => .refused r

/-- The foreground goes on with the operation it is inside, as far as one machine step takes it. -/
def continueFg (s : State) : Answer := runFg (s.env.length + quietSteps) s

/-- A composite operation starts at the label `l`. -/
def startAt (l : Fg) (s : State) : Answer := continueFg { s with fg := l }

/-- A composite operation starts with a `CLK.NOW` (R137). -/
def startNow (k : AfterNow) (s : State) : Answer := startAt (.now .n1 k) s

end Sys2Proof.Machine
end

