-- ==== Sys2Proof/Machine/AdcScan.lean ====
section
/-! DEFINITION. RoundRobinADC (45_round_robin_adc.md): `ADC.PROCESS`, `ADC.VALUE`, `ADC.START`, `ADC.NEXT`,
`ADC.VALUE_OF`. -/

namespace Sys2Proof.Machine

/-- The latest value of channel index `i` (R213, R215): faults where no conversion has completed (U5). -/
def sampleOf (i : Nat) (s : State) : Answer :=
  match s.adc.valid[i]?, s.adc.latest[i]? with
  | some true, some v => .next (finish (.sample v) s)
  | some false, some _ => .fault .adcValueBeforeCompletion
  | _, _ => .refused .operandRange

/-- A foreground step's answer, with its result. -/
def withResult (r : Result) : Answer → Answer
  | .next s => .next (finish r s)
  | .fault f => .fault f
  | .refused f => .refused f

/-- `ADC.PROCESS -> bool` (R212). -/
def execAdcProcess (s : State) : Answer :=
  inForeground s <|
    match adcPoll s with
    | (s1, done) => .next (finish (.bool done) s1)

/-- `ADC.VALUE` (R213): the current channel's latest value. -/
def execAdcValue (s : State) : Answer := inForeground s (sampleOf s.adc.cur s)

/-- `ADC.START` (R211). -/
def execAdcStart (s : State) : Answer := inForeground s (withResult .none (startConversion s))

/-- `ADC.NEXT` (R214). -/
def execAdcNext (s : State) : Answer := inForeground s (withResult .none (startNextConversion s))

/-- `ADC.VALUE_OF i` (R215). -/
def execAdcValueOf (i : Nat) (s : State) : Answer := inForeground s (sampleOf i s)

end Sys2Proof.Machine
end

