-- ==== Sys2Proof/Machine/BlinkSignaller.lean ====
section
/-! DEFINITION. BlinkSignaller (47_blink_signaller.md): `BL.SIGNAL`, `BL.PROCESS`. -/

namespace Sys2Proof.Machine

/-- `BL.SIGNAL count, on, off` (R241). -/
def execBlSignal (count on off : Nat) (s : State) : Answer :=
  inForeground s (startAt (.blArm count on off) s)

/-- `BL.PROCESS` (R242): no clock read while `remaining` is 0. The test of `remaining` is in one step with N1, the writes in
one step with N5 (DESIGN CHOICE, log 30). -/
def execBlProcess (s : State) : Answer :=
  inForeground s <|
    if s.bl.remaining = 0 then .next (finish .none s) else startNow .blProcess s

end Sys2Proof.Machine
end

