-- ==== Sys2Proof/Machine/BootFilter.lean ====
section
/-! DEFINITION. BootTriggerFilter (43_boot_trigger_filter.md): `BTF.CHECK`. -/

namespace Sys2Proof.Machine

/-- `BTF.CHECK b -> byte` (R166): the filter sees the byte, which is returned unchanged (R168). -/
def execBtfCheck (b : Byte) (s : State) : Answer :=
  inRingContext [.rxc] s (.next (deliver (.byte b) (filterByte b s)))

end Sys2Proof.Machine
end

