-- ==== Sys2Proof/Machine/CommandFramer.lean ====
section
/-! DEFINITION. CommandFramer (46_command_framer.md): `CF.PUSH_DATA`, `CF.PAYLOAD`. -/

namespace Sys2Proof.Machine

/-- `CF.PUSH_DATA b -> Event` (R227). -/
def execCfPushData (b : Byte) (s : State) : Answer :=
  inForeground s <|
    match s.cf.st with
    | .idle =>
      if b = s.cfg.extMarker then startNow .cfArm s else .next (finish (.event (.cmd b)) s)
    | .awaitingPayload => startNow (.cfPayload b) s

/-- `CF.PAYLOAD i -> byte` (R228): only index 0; faults before the first `ExtReady` (U4). -/
def execCfPayload (i : Nat) (s : State) : Answer :=
  inForeground s <|
    if i = 0 then
      if s.cf.ready then .next (finish (.byte s.cf.payload) s) else .fault .payloadUnset
    else .refused .operandRange

end Sys2Proof.Machine
end

