-- ==== Sys2Proof/Machine/Deadlines.lean ====
section
/-! DEFINITION. Deadline and Stopwatch (42_deadline_stopwatch.md): `DL.NEW`, `DL.ELAPSED`, `DL.RESTART`, `DL.CANCEL`,
`SW.NEW`, `SW.ELAPSED_TIME`. -/

namespace Sys2Proof.Machine

/-- `DL.NEW d, duration` (R151). -/
def execDlNew (d duration : Nat) (s : State) : Answer :=
  inForeground s <|
    match s.dl[d]? with
    | some _ => startNow (.dlNew d duration) s
    | none => .refused .operandRange

/-- `DL.ELAPSED d -> bool` (R152): a cancelled deadline answers without reading the clock. -/
def execDlElapsed (d : Nat) (s : State) : Answer :=
  inForeground s <|
    match s.dl[d]? with
    | some D =>
      if D.made then
        if D.cancelled then .next (finish (.bool false) s) else startNow (.dlElapsed d) s
      else .fault .unconstructedDeadline
    | none => .refused .operandRange

/-- `DL.RESTART d` (R153). -/
def execDlRestart (d : Nat) (s : State) : Answer :=
  inForeground s <|
    match s.dl[d]? with
    | some D => if D.made then startNow (.dlRestart d) s else .fault .unconstructedDeadline
    | none => .refused .operandRange

/-- `DL.CANCEL d` (R154). -/
def execDlCancel (d : Nat) (s : State) : Answer :=
  inForeground s <|
    match s.dl[d]? with
    | some D => .next (finish .none { s with dl := s.dl.set d { D with cancelled := true } })
    | none => .refused .operandRange

/-- `SW.NEW s` (R155). -/
def execSwNew (w : Nat) (s : State) : Answer :=
  inForeground s <|
    match s.sw[w]? with
    | some _ => startNow (.swNew w) s
    | none => .refused .operandRange

/-- `SW.ELAPSED_TIME s -> WideTime` (R156). -/
def execSwElapsedTime (w : Nat) (s : State) : Answer :=
  inForeground s <|
    match s.sw[w]? with
    | some W => if W.made then startNow (.swElapsed w) s else .fault .unconstructedStopwatch
    | none => .refused .operandRange

end Sys2Proof.Machine
end

