-- ==== Sys2Proof/Machine/Environment.lean ====
section
/-! DEFINITION. Environment and host events: `ENV.TICK`, `ENV.RX`, `ENV.TX_DONE`, `ENV.ADC_DONE` (10_state.md) and
`ENV.RESET` (70_reset_and_hazards.md). They need no context of the processor (context E of R95). -/

namespace Sys2Proof.Machine

/-- An environment event issued as a word: refused where it is not enabled (R48, R49, R51). -/
def environment (e : EnvEvent) (s : State) : Answer :=
  if e.enabled s then .next (e.apply s) else .refused .eventNotEnabled

/-- `ENV.TICK n` (R46, R100). -/
def execEnvTick (n : Nat) (s : State) : Answer := .next (tickMany n s)

/-- `ENV.RX data, flags` (R48, R100). -/
def execEnvRx (data : Byte) (ovf fe : Bool) (s : State) : Answer := environment (.rx data ovf fe) s

/-- `ENV.TX_DONE` (R49). -/
def execEnvTxDone (s : State) : Answer := environment .txDone s

/-- `ENV.ADC_DONE v` (R51). -/
def execEnvAdcDone (v : Nat) (s : State) : Answer := environment (.adcDone v) s

/-- `ENV.RESET` (R300), from any state. -/
def execEnvReset (s : State) : Answer := .next (hardwareReset s)

end Sys2Proof.Machine
end

