-- ==== Sys2Proof/Machine/Interrupts.lean ====
section
/-! DEFINITION. Interrupt control (60_exceptions.md): `CLI`, `SEI`. -/

namespace Sys2Proof.Machine

/-- `CLI` (R273). -/
def execCli (s : State) : Answer :=
  inForeground s (.next (finish .none { s with cpu := { s.cpu with gie := false } }))

/-- `SEI` (R274), unconditional. -/
def execSei (s : State) : Answer :=
  inForeground s (.next (finish .none { s with cpu := { s.cpu with gie := true } }))

end Sys2Proof.Machine
end

