-- ==== Sys2Proof/Machine/Pump.lean ====
section
/-! DEFINITION. Pump and the generic wait (48_pump_and_waits.md): `PUMP`, `WAIT`. -/

namespace Sys2Proof.Machine

/-- `PUMP` (R250). -/
def execPump (s : State) : Answer := inForeground s (startAt (.pump (pumpAll s.cfg) .ret) s)

/-- `WAIT duration` (R251): WT1 reads `base`, then the loop. -/
def execWait (duration : Nat) (s : State) : Answer := inForeground s (startNow (.waitBase duration) s)

end Sys2Proof.Machine
end

