-- ==== Sys2Proof/Machine/RingBuffer.lean ====
section
/-! DEFINITION. FixedRingBuffer (40_ring_buffer.md): `RB.PUSH`, `RB.POP`, `RB.TOP`, `RB.EMPTY`, `RB.FULL`, `RB.SIZE`. -/

namespace Sys2Proof.Machine

/-- `RB.PUSH r, v -> bool` (R121). -/
def execRbPush (r : RingSel) (v : Byte) (s : State) : Answer :=
  inRingContext ringHandlers s <|
    match ringPush (capacity s.cfg r) v (s.ring r) with
    | (R, ok) => .next (deliver (.bool ok) (s.withRing R r))

/-- `RB.POP r -> T` (R122): faults on an empty ring (U1). -/
def execRbPop (r : RingSel) (s : State) : Answer :=
  inRingContext ringHandlers s <|
    match ringPop (capacity s.cfg r) (s.ring r) with
    | some (v, R) => .next (deliver (.byte v) (s.withRing R r))
    | none => .fault .popEmpty

/-- `RB.TOP r -> T` (R123): faults on an empty ring (U2). -/
def execRbTop (r : RingSel) (s : State) : Answer :=
  inRingContext ringHandlers s <|
    match ringTop (s.ring r) with
    | some v => .next (deliver (.byte v) s)
    | none => .fault .popEmpty

/-- `RB.EMPTY r -> bool` (R124). -/
def execRbEmpty (r : RingSel) (s : State) : Answer :=
  inRingContext ringHandlers s (.next (deliver (.bool (s.ring r).isEmpty) s))

/-- `RB.FULL r -> bool` (R125). -/
def execRbFull (r : RingSel) (s : State) : Answer :=
  inRingContext ringHandlers s (.next (deliver (.bool ((s.ring r).isFull (capacity s.cfg r))) s))

/-- `RB.SIZE r -> count` (R126). -/
def execRbSize (r : RingSel) (s : State) : Answer :=
  inRingContext ringHandlers s (.next (deliver (.count (s.ring r).count) s))

end Sys2Proof.Machine
end

