-- ==== Sys2Proof/Machine/SerialPort.lean ====
section
/-! DEFINITION. AsyncSerialPort (44_async_serial_port.md): `SP.INIT`, the queries, the blocking operations, the receive
and transmit paths, the loss counter. -/

namespace Sys2Proof.Machine

/-- A ring emptied by construction (R177); its slots keep what they hold. -/
def Ring.cleared (R : Ring) : Ring := { R with head := 0, tail := 0, count := 0 }

/-- The construction of the port (R177). -/
def constructPort (baud : BitVec 32) (async : Bool) (s : State) : State :=
  { s with sp := { rx := s.sp.rx.cleared, tx := s.sp.tx.cleared, loss := 0, baud := baud.toNat, asyncTx := async,
                   inited := true, progress := 0 },
           hw := { s.hw with dreIe := false } }

/-- `SP.INIT baud, async` (R177): issued once; a second time it is refused (U13), and so is a baud rate that is not positive
(R36, R104; log 16). -/
def execSpInit (baud : BitVec 32) (async : Bool) (s : State) : Answer :=
  inForeground s <|
    if baud = 0 then .refused .operandRange
    else if s.sp.inited then .refused .alreadyInitialised
    else .next (finish .none (constructPort baud async s))

/-- `SP.EMPTY -> bool` (R178). -/
def execSpEmpty (s : State) : Answer := inForeground s (.next (finish (.bool s.sp.rx.isEmpty) s))

/-- `SP.TX_EMPTY -> bool` (R179). -/
def execSpTxEmpty (s : State) : Answer := inForeground s (.next (finish (.bool s.sp.tx.isEmpty) s))

/-- `SP.TX_READY -> bool` (R180). -/
def execSpTxReady (s : State) : Answer :=
  inForeground s (.next (finish (.bool (decide (s.sp.tx.count < s.cfg.nTx))) s))

/-- `SP.READ -> byte` (R181). -/
def execSpRead (s : State) : Answer := inForeground s (startAt .rd1 s)

/-- `SP.WRITE b` (R182): unbuffered from W1a when `N_TX = 0`, else from W2. -/
def execSpWrite (b : Byte) (s : State) : Answer :=
  inForeground s (startAt (if s.cfg.nTx = 0 then .w1a b else .w2 b) s)

/-- `SP.FLUSH` (R183). -/
def execSpFlush (s : State) : Answer := inForeground s (startAt .f1 s)

/-- `SP.PROCESS_RX` (R184). -/
def execSpProcessRx (s : State) : Answer := inForeground s (.next (finish .none (processRx s)))

/-- `SP.INTR_RX -> bool` (R185): the body of ISR_RXC; refused with no frame waiting (U12). -/
def execSpIntrRx (s : State) : Answer :=
  inHandler .rxc s <|
    match s.hw.rxFrame with
    | some f => .next (intrRx f s)
    | none => .refused .noFrame

/-- `SP.PROCESS_TX` (R186). -/
def execSpProcessTx (s : State) : Answer := inForeground s (.next (finish .none (drainOne s)))

/-- `SP.INTR_TX` (R187): the body of ISR_DRE. -/
def execSpIntrTx (s : State) : Answer := inHandler .dre s (.next (intrTx s))

/-- `SP.OVERFLOW` (R188). -/
def execSpOverflow (s : State) : Answer := inForeground s (.next (finish (.loss s.sp.loss) s))

/-- `SP.CLEAR_OVERFLOW` (R189). -/
def execSpClearOverflow (s : State) : Answer :=
  inForeground s (.next (finish .none { s with sp := { s.sp with loss := 0 } }))

end Sys2Proof.Machine
end

