-- ==== Sys2Proof/Machine/SoftClock.lean ====
section
/-! DEFINITION. SoftClock (41_soft_clock.md): `CLK.PROCESS`, `CLK.NOW`. -/

namespace Sys2Proof.Machine

/-- `CLK.PROCESS` (R136): the body of ISR_TOV and nothing else. -/
def execClkProcess (s : State) : Answer := inHandler .tov s (.next (bumpTally s))

/-- `CLK.NOW -> WideTime` (R137): the retry-read protocol. -/
def execClkNow (s : State) : Answer := inForeground s (startNow .clkNow s)

end Sys2Proof.Machine
end

