-- ==== Sys2Proof/Machine/Dispatch.lean ====
section
/-! DEFINITION. One arm per operation: a direct call of its meaning. -/

namespace Sys2Proof.Machine

-- The meaning of every operation of the table of R95.
def exec (i : Instr) (s : State) : Host.Outcome State Fault Refusal :=
  match i with
  | .rbPush r v => Sys2Proof.Machine.execRbPush r v s
  | .rbPop r => Sys2Proof.Machine.execRbPop r s
  | .rbTop r => Sys2Proof.Machine.execRbTop r s
  | .rbEmpty r => Sys2Proof.Machine.execRbEmpty r s
  | .rbFull r => Sys2Proof.Machine.execRbFull r s
  | .rbSize r => Sys2Proof.Machine.execRbSize r s
  | .clkProcess => Sys2Proof.Machine.execClkProcess s
  | .clkNow => Sys2Proof.Machine.execClkNow s
  | .dlNew d duration => Sys2Proof.Machine.execDlNew d duration s
  | .dlElapsed d => Sys2Proof.Machine.execDlElapsed d s
  | .dlRestart d => Sys2Proof.Machine.execDlRestart d s
  | .dlCancel d => Sys2Proof.Machine.execDlCancel d s
  | .swNew w => Sys2Proof.Machine.execSwNew w s
  | .swElapsedTime w => Sys2Proof.Machine.execSwElapsedTime w s
  | .btfCheck b => Sys2Proof.Machine.execBtfCheck b s
  | .spInit baud async => Sys2Proof.Machine.execSpInit baud async s
  | .spEmpty => Sys2Proof.Machine.execSpEmpty s
  | .spTxEmpty => Sys2Proof.Machine.execSpTxEmpty s
  | .spTxReady => Sys2Proof.Machine.execSpTxReady s
  | .spRead => Sys2Proof.Machine.execSpRead s
  | .spWrite b => Sys2Proof.Machine.execSpWrite b s
  | .spFlush => Sys2Proof.Machine.execSpFlush s
  | .spProcessRx => Sys2Proof.Machine.execSpProcessRx s
  | .spIntrRx => Sys2Proof.Machine.execSpIntrRx s
  | .spProcessTx => Sys2Proof.Machine.execSpProcessTx s
  | .spIntrTx => Sys2Proof.Machine.execSpIntrTx s
  | .spOverflow => Sys2Proof.Machine.execSpOverflow s
  | .spClearOverflow => Sys2Proof.Machine.execSpClearOverflow s
  | .adcProcess => Sys2Proof.Machine.execAdcProcess s
  | .adcValue => Sys2Proof.Machine.execAdcValue s
  | .adcStart => Sys2Proof.Machine.execAdcStart s
  | .adcNext => Sys2Proof.Machine.execAdcNext s
  | .adcValueOf c => Sys2Proof.Machine.execAdcValueOf c s
  | .cfPushData b => Sys2Proof.Machine.execCfPushData b s
  | .cfPayload n => Sys2Proof.Machine.execCfPayload n s
  | .blSignal count on off => Sys2Proof.Machine.execBlSignal count on off s
  | .blProcess => Sys2Proof.Machine.execBlProcess s
  | .pump => Sys2Proof.Machine.execPump s
  | .wait duration => Sys2Proof.Machine.execWait duration s
  | .cli => Sys2Proof.Machine.execCli s
  | .sei => Sys2Proof.Machine.execSei s
  | .envTick n => Sys2Proof.Machine.execEnvTick n s
  | .envRx data ovf fe => Sys2Proof.Machine.execEnvRx data ovf fe s
  | .envTxDone => Sys2Proof.Machine.execEnvTxDone s
  | .envAdcDone v => Sys2Proof.Machine.execEnvAdcDone v s
  | .envReset => Sys2Proof.Machine.execEnvReset s

end Sys2Proof.Machine
end

