-- ==== Sys2Proof/Machine/Fetch.lean ====
section
/-! DEFINITION. How an operation comes to be performed (R2, R5): agents issue operation words, which `issue` holds in the
order they are issued; a handler's body is the one operation of R266. -/

namespace Sys2Proof.Machine

/-- What the block does next when no handler runs and no interrupt is taken. -/
inductive Next where
  /-- No operation is issued and none is in progress. -/
  | nothing
  /-- The foreground goes on with the operation it is inside. -/
  | goOn
  /-- An operation is performed; the bytes after its word are still to be issued. -/
  | perform (i : Instr) (rest : List Byte)
  /-- The bytes spell no operation (R103, R104). -/
  | invalid (e : DecodeError)
deriving DecidableEq, Repr

/-- The head of `issue` is fetched when the foreground is between operations. While it is inside one, it goes on with it
(R68: FG's steps appear in program order), but an environment event that stands at the head, a reset among them, happens
wherever the operation stands (R68, R300; log 2). -/
def fetch (s : State) : Next :=
  match s.issue with
  | [] => if s.fg.isIdle then .nothing else .goOn
  | _ :: _ =>
    match decode s.cfg s.issue with
    | .ok (i, rest) => if s.fg.isIdle || i.isEnv then .perform i rest else .goOn
    | .error e => if s.fg.isIdle then .invalid e else .goOn

/-- The operation that is a handler's body (R266). -/
def Handler.body : Handler → Instr
  | .tov => .clkProcess
  | .rxc => .spIntrRx
  | .dre => .spIntrTx

/-- A gap outside a composite operation, before a handler's entry or between its entry and its body (R10, R68): the moves
of the head of `env`, where the schedule has one. A reset among them leaves no handler running (R300). -/
def outerGap (s : State) : State :=
  match s.env with
  | g :: gs => applyMoves g { s with env := gs }
  | [] => s

/-- A handler is entered after such a gap: a request that may be taken then, if the moves left one (R267, R271). -/
def enterHandler (s : State) : State :=
  match chooseIrq s with
  | some h => takeIrq h s
  | none => s

/-- A handler performs its body after such a gap and returns (R266, R270). After a reset in the gap no handler runs, and
its body is not performed (R300). -/
def endHandler (s : State) (body : Answer) : Answer :=
  if s.cpu.inIsr then
    match body with
    | .next t => .next (returnIrq t)
    | .fault r => .fault r
    | .refused r => .refused r
  else .next s

/-- The handler whose body an operation is, if it is one (R281). -/
def handlerOf : Instr → Option Handler
  | .clkProcess => some .tov
  | .spIntrRx => some .rxc
  | .spIntrTx => some .dre
  | .rbPush _ _ | .rbPop _ | .rbTop _ | .rbEmpty _ | .rbFull _ | .rbSize _ | .clkNow | .dlNew _ _
  | .dlElapsed _ | .dlRestart _ | .dlCancel _ | .swNew _ | .swElapsedTime _ | .btfCheck _ | .spInit _ _
  | .spEmpty | .spTxEmpty | .spTxReady | .spRead | .spWrite _ | .spFlush | .spProcessRx | .spProcessTx
  | .spOverflow | .spClearOverflow | .adcProcess | .adcValue | .adcStart | .adcNext | .adcValueOf _
  | .cfPushData _ | .cfPayload _ | .blSignal _ _ _ | .blProcess | .pump | .wait _ | .cli | .sei
  | .envTick _ | .envRx _ _ _ | .envTxDone | .envAdcDone _ | .envReset => none

/-- The word is made the very next thing performed (log 2). A handler's body is performed inside its handler, with
nothing between entry and body. Of any other word, the bytes are all that is issued, no handler runs, no interrupt is
taken before it, and the foreground is between operations, except that an environment event leaves the foreground where
it stands. -/
def placeWord (s : State) (bytes : List Byte) : State :=
  let s1 := { s with issue := bytes, cpu := { gie := s.cpu.gie && s.requests.isEmpty, handler := none } }
  match decode s.cfg bytes with
  | .ok (i, _) =>
    match handlerOf i with
    | some h => { s with cpu := { gie := false, handler := some h }, env := [] :: s.env }
    | none => if i.isEnv then s1 else { s1 with fg := .idle }
  | .error _ => { s1 with fg := .idle }

end Sys2Proof.Machine
end

