-- ==== Sys2Proof/Machine/Step.lean ====
section
/-! DEFINITION. One step of the machine, and how a word is placed where the next step fetches. -/

namespace Sys2Proof.Machine

/-- One step. A handler that runs performs its body and returns (R266, R270). Else a pending interrupt that may be taken
is taken (R267, R268). Before either there is a gap (R10); a reset in it (R300) leaves nothing to perform or to take.
Else the next issued operation is performed, or the foreground goes on with the one it is inside; with nothing issued
and nothing in progress the block stays as it is (R2, log 25). -/
def step (s : State) : Host.Outcome State Fault Refusal :=
  match s.cpu.handler with
  | some h => endHandler (outerGap s) (exec h.body (outerGap s))
  | none =>
    match chooseIrq s with
    | some _ => .next (enterHandler (outerGap s))
    | none =>
      match fetch s with
      | .nothing => .next s
      | .goOn => continueFg s
      | .perform i rest => exec i { s with issue := rest }
      | .invalid e => .refused (.invalidWord e)

/-- The word whose `nbits` table bits are `w`, placed where `step` fetches its next instruction. -/
def State.withFetchWord (s : State) (nbits w : Nat) : State := placeWord s (wordBytes s.cfg nbits w)

end Sys2Proof.Machine
end

