-- ==== Sys2Proof/Safety.lean ====
section
/-! DEFINITION. What a state that a run can reach looks like: the widths and index ranges of 10_state.md, the ring
invariant of R21, and what the place of the foreground inside an operation implies. Claims use it as a premise. -/

namespace Sys2Proof.Machine

/-- R21: "count never exceeds N", the cursors are below `N`, and `tail = (head + count) mod N` when `N >= 1`. -/
structure RingOk (n : Nat) (R : Ring) : Prop where
  slots : R.buf.length = n
  count_le : R.count ≤ n
  head_lt : n ≠ 0 → R.head < n
  tail_eq : n ≠ 0 → R.tail = (R.head + R.count) % n

/-- A value of a `w`-bit field. -/
abbrev FitsWidth (w v : Nat) : Prop := v < 2 ^ w

/-- The locals of a `CLK.NOW` in progress fit their widths (R137, R66). -/
def PhaseOk (P : Params) : NowPhase → Prop
  | .n1 => True
  | .n2 c1 => FitsWidth P.wCnt c1
  | .n2rest c1 o _ _ => FitsWidth P.wCnt c1 ∧ FitsWidth P.wOvf o
  | .n3 c1 o => FitsWidth P.wCnt c1 ∧ FitsWidth P.wOvf o
  | .n4 c1 o c2 => FitsWidth P.wCnt c1 ∧ FitsWidth P.wOvf o ∧ FitsWidth P.wCnt c2
  | .n5 o c2 => FitsWidth P.wOvf o ∧ FitsWidth P.wCnt c2

/-- The locals of a `WAIT` in progress fit their widths (R251). -/
def AfterPumpOk (P : Params) : AfterPump → Prop
  | .ret => True
  | .wait base duration => FitsWidth P.wTime base ∧ FitsWidth P.wTime duration

/-- What the operation inside which the clock is read needs of the state when the value arrives. -/
def AfterNowOk (s : State) : AfterNow → Prop
  | .clkNow => True
  | .dlNew d duration => d < s.dl.length ∧ FitsWidth s.cfg.wTime duration
  | .dlElapsed d => d < s.dl.length
  | .dlRestart d => d < s.dl.length
  | .swNew w => w < s.sw.length
  | .swElapsed w => w < s.sw.length
  | .cfArm => s.cf.st = .idle
  | .cfPayload _ => s.cf.st = .awaitingPayload
  | .blSignal => True
  | .blProcess => s.bl.remaining ≠ 0
  | .pumpBlink todo k => s.bl.remaining ≠ 0 ∧ PumpPart.adcNext ∉ todo ∧ AfterPumpOk s.cfg k
  | .waitBase duration => FitsWidth s.cfg.wTime duration
  | .waitTest base duration => FitsWidth s.cfg.wTime base ∧ FitsWidth s.cfg.wTime duration

/-- What the place of the foreground implies: no handler runs between RD2a and RD2c (R70), RD3 finds a byte (R181), W4 finds a free slot (R182: "ok is always true"),
W1b finds the transmitter ready, PU4 finds no conversion in flight (R250). -/
def FgOk (s : State) : Prop :=
  match s.fg with
  | .idle => True
  | .now ph k => PhaseOk s.cfg ph ∧ AfterNowOk s k
  | .rd1 => True
  | .rd2a => True
  | .rd2b => s.cpu.gie = false ∧ s.cpu.handler = none
  | .rd2c => s.cpu.gie = false ∧ s.cpu.handler = none
  | .rd3 => s.sp.rx.count ≠ 0
  | .w1a _ => s.cfg.nTx = 0
  | .w1b _ => s.cfg.nTx = 0 ∧ s.hw.txEmpty = true
  | .w2 _ => s.cfg.nTx ≠ 0
  | .w3 _ => s.cfg.nTx ≠ 0
  | .w4 _ => s.cfg.nTx ≠ 0 ∧ s.sp.tx.count < s.cfg.nTx
  | .w5 => s.cfg.nTx ≠ 0
  | .f1 => True
  | .f2 => True
  | .pump todo k =>
    PumpPart.adcNext ∉ todo.tail ∧ (todo.head? = some .adcNext → s.adc.inProgress = false) ∧ AfterPumpOk s.cfg k
  | .blArm count on off => FitsWidth s.cfg.wCount count ∧ FitsWidth s.cfg.wTime on ∧ FitsWidth s.cfg.wTime off

/-- The deadlines' fields fit their widths (R29). -/
def DeadlineOk (P : Params) (D : Deadline) : Prop := FitsWidth P.wTime D.base ∧ FitsWidth P.wTime D.duration

/-- The invariant of the block: the widths and ranges of R21 to R33, R36 and R46 to R52, one conversion in flight at a time
(R32, R51), no handler with interrupts enabled (R267, R269), a frame for the receive handler (R266, R272), and `FgOk`. -/
structure Inv (s : State) : Prop where
  params : s.cfg.valid = true
  rx : RingOk s.cfg.nRx s.sp.rx
  tx : RingOk s.cfg.nTx s.sp.tx
  loss : FitsWidth s.cfg.wLoss s.sp.loss
  baud : 0 < s.sp.baud
  progress : s.sp.progress < s.cfg.bootSeq.length
  tally : FitsWidth s.cfg.wOvf s.clk.tally
  counter : FitsWidth s.cfg.wCnt s.hw.cnt
  dl_length : s.dl.length = s.cfg.nDl
  dl_fields : ∀ D ∈ s.dl, DeadlineOk s.cfg D
  sw_length : s.sw.length = s.cfg.nSw
  sw_fields : ∀ W ∈ s.sw, FitsWidth s.cfg.wTime W.base
  framer_base : FitsWidth s.cfg.wTime s.cf.deadline.base
  framer_duration : s.cf.deadline.duration = s.cfg.payloadTimeout
  framer_armed : s.cf.deadline.cancelled = false
  adc_cur : s.adc.cur < s.cfg.channels.length
  adc_latest : s.adc.latest.length = s.cfg.channels.length
  adc_valid : s.adc.valid.length = s.cfg.channels.length
  adc_samples : ∀ v ∈ s.adc.latest, FitsWidth s.cfg.wAdc v
  adc_result : FitsWidth s.cfg.wAdc s.hw.adcResult
  adc_idle : s.adc.inProgress = false → s.hw.adcBusy = none
  adc_flight : s.adc.inProgress = true → s.hw.adcBusy.isSome = !s.hw.adcReady
  blink_count : FitsWidth s.cfg.wCount s.bl.remaining
  blink_times : FitsWidth s.cfg.wTime s.bl.onDur ∧ FitsWidth s.cfg.wTime s.bl.offDur
    ∧ FitsWidth s.cfg.wTime s.bl.phaseStart
  masked : s.cpu.handler ≠ none → s.cpu.gie = false
  frame : s.cpu.handler = some .rxc → s.hw.rxFrame ≠ none
  place : FgOk s

/-- A run that has not stopped: the answer is a next state. -/
def Answer.goesOn : Answer → Bool
  | .next _ => true
  | .fault _ => false
  | .refused _ => false

/-- The foreground may be issued an operation: no handler runs and it stands between operations (R5, R281). -/
def Ready (s : State) : Prop := s.cpu.handler = none ∧ s.fg = .idle

/-- No handler will run: interrupts are off, or nothing requests one (R267). -/
def Undisturbed (s : State) : Prop := s.cpu.gie = false ∨ s.requests = []

/-- A ring operation may be issued: inside one of the handlers, or by the foreground, serialised (R281, R129). -/
def RingReady (hs : List Handler) (s : State) : Prop :=
  (∃ h ∈ hs, s.cpu.handler = some h) ∨ (Ready s ∧ s.unserialised = false)

/-- A foreground operation runs with nothing beside it: the environment is quiet and no handler will run. -/
structure Alone (s : State) : Prop where
  ready : Ready s
  quiet : s.env = []
  undisturbed : Undisturbed s

/-- A gap of `n` ticks. -/
def tickGap (n : Nat) : List Move := List.replicate n (.event .tick)

/-- `n` ticks later, none of which wraps the counter, with `rest` of the schedule left. -/
def State.later (n : Nat) (rest : List (List Move)) (s : State) : State :=
  { s with env := rest, hw := { s.hw with cnt := s.hw.cnt + n }, ticks := s.ticks + n }

/-- The value of the clock at this instant (R135). -/
def State.clock (s : State) : Nat := wideTime s.cfg s.clk.tally s.hw.cnt

/-- The quiet gaps between the parts of a tally read (R66); none where the read is one step. -/
def tallyGaps (P : Params) : List (List Move) := List.replicate (tallyParts P - 1) []

/-- The schedule of one clock reading that is accepted at once: `n` ticks after N1, none between the parts of N2, `m` ticks
after N2, none after N3 and N4, then `rest`; and no handler runs. -/
structure Reading (n m : Nat) (rest : List (List Move)) (s : State) : Prop where
  ready : Ready s
  schedule : s.env = tickGap n :: (tallyGaps s.cfg ++ tickGap m :: [] :: [] :: rest)
  undisturbed : Undisturbed s
  no_wrap : s.hw.cnt + (n + m) < 2 ^ s.cfg.wCnt
  accepted : sampleAccepted s.cfg s.hw.cnt (s.hw.cnt + (n + m)) = true

/-- `CLK.NOW` issued here ends within the machine step, returns `v` and leaves the state `t` (R137). -/
def ReadsClock (s : State) (v : Nat) (t : State) : Prop :=
  exec .clkNow s = .next t ∧ t.fg = .idle ∧ t.result = .time v

/-- The clock counts the ticks (the premise (c) of R139): no overflow is pending or has been lost. -/
structure Synced (s : State) : Prop where
  counter : s.hw.cnt = s.ticks % 2 ^ s.cfg.wCnt
  tally : s.clk.tally = s.ticks / 2 ^ s.cfg.wCnt % 2 ^ s.cfg.wOvf
  none_pending : s.hw.tovPending = false

/-- How many ticks a gap holds. -/
def gapTicks (g : List Move) : Nat := (g.filter fun m => m == .event .tick).length

/-- Premise (b) of R139 for a schedule: any `k` consecutive gaps hold fewer than `n` ticks together. -/
def FewTicks (k n : Nat) (env : List (List Move)) : Prop :=
  ∀ i, (((env.drop i).take k).map gapTicks).sum < n

/-- The byte of an `SP.WRITE` in progress that is not yet in the ring or on the line (R182). -/
def State.toSend (s : State) : List Byte :=
  match s.fg with
  | .w1a b | .w1b b | .w2 b | .w3 b | .w4 b => [b]
  | .idle | .now _ _ | .rd1 | .rd2a | .rd2b | .rd2c | .rd3 | .w5 | .f1 | .f2 | .pump _ _
  | .blArm _ _ _ => []

/-- The transmitted bytes in order: those on the line, those in the ring, and the one still to be written (R192). -/
def State.transmitted (s : State) : List Byte := s.lineOut ++ s.sp.tx.q s.cfg.nTx ++ s.toSend

/-- A schedule in which HOST does not reset the block. -/
abbrev NoReset (env : List (List Move)) : Prop := ∀ g ∈ env, Move.reset ∉ g

/-- What completes a scan step inside `PUMP` (PU3, PU4 of R250): a reported sample, and the next channel started. -/
def scanAdvance (s : State) : State :=
  if s.sampleReady then
    match startNextConversion (storeSample s) with
    | .next t => t
    | .fault _ => s
    | .refused _ => s
  else s

/-- A quiet gap for each labelled step that the units `us` of a `PUMP` make, the blink unit apart (R250): two for the serial
port, and one for the scanner, or two where it reports a conversion and starts the next. -/
def pumpGaps (us : List PumpUnit) (s : State) : List (List Move) :=
  us.flatMap fun u =>
    match u with
    | .serial => [[], []]
    | .adc => if s.sampleReady then [[], []] else [[]]
    | .blink => []

/-- The operations whose context is the foreground alone (R281). -/
def foregroundOnly : Instr → Bool
  | .clkNow | .dlNew _ _ | .dlElapsed _ | .dlRestart _ | .dlCancel _ | .swNew _ | .swElapsedTime _ => true
  | .spInit _ _ | .spEmpty | .spTxEmpty | .spTxReady | .spRead | .spWrite _ | .spFlush | .spProcessRx => true
  | .spProcessTx | .spOverflow | .spClearOverflow => true
  | .adcProcess | .adcValue | .adcStart | .adcNext | .adcValueOf _ => true
  | .cfPushData _ | .cfPayload _ | .blSignal _ _ _ | .blProcess | .pump | .wait _ | .cli | .sei => true
  | .clkProcess | .spIntrRx | .spIntrTx => false
  | .rbPush _ _ | .rbPop _ | .rbTop _ | .rbEmpty _ | .rbFull _ | .rbSize _ | .btfCheck _ => false
  | .envTick _ | .envRx _ _ _ | .envTxDone | .envAdcDone _ | .envReset => false

/-- The operations that may write the framer (R31, R231). -/
def writesFramer : Instr → Bool
  | .cfPushData _ | .envReset => true
  | _ => false

/-- The operations that may write a deadline (R29). -/
def writesDeadlines : Instr → Bool
  | .dlNew _ _ | .dlRestart _ | .dlCancel _ | .envReset => true
  | _ => false

/-- The operations that may write a stopwatch (R30). -/
def writesStopwatches : Instr → Bool
  | .swNew _ | .envReset => true
  | _ => false

/-- The operations that may write the scanner (R32, R250). -/
def writesScanner : Instr → Bool
  | .adcProcess | .adcStart | .adcNext | .pump | .wait _ | .envReset => true
  | _ => false

/-- The operations that may write the blink signaller (R33, R244, R250). -/
def writesBlinker : Instr → Bool
  | .blSignal _ _ _ | .blProcess | .pump | .wait _ | .envReset => true
  | _ => false

/-- The operations that may re-arm deadline `d` or make its fields unspecified (R154, R300). -/
def rearms (d : Nat) : Instr → Bool
  | .dlNew d' _ => d' == d
  | .dlRestart d' => d' == d
  | .envReset => true
  | _ => false

end Sys2Proof.Machine
end

