-- ==== Sys2Proof/Certificates/Slice0/Obligations.lean ====
section
/-! DEFINITION. The statements for the provers, one `def Obligations.<Name> : Prop` each. -/

open Sys2Proof Sys2Proof.Machine

/-! ### Operation words -/

/-- R91, R93, R95: decoding the encoding of a well-formed operation gives it back, whatever bytes follow. -/
def Obligations.DecodeEncode : Prop :=
  ∀ (P : Params) (i : Instr) (rest : List Byte), i.wellFormed P = true →
    decode P (encode P i ++ rest) = .ok (i, rest)

/-- R91, R93, R104: bytes that decode are the encoding of a well-formed operation: each operation has one word. -/
def Obligations.EncodeDecode : Prop :=
  ∀ (P : Params) (bytes : List Byte) (i : Instr) (rest : List Byte), decode P bytes = .ok (i, rest) →
    encode P i ++ rest = bytes ∧ i.wellFormed P = true

/-- R103: a byte that is the opcode of no operation is refused, whatever bytes follow. -/
def Obligations.UnassignedOpcodes : Prop :=
  ∀ (P : Params) (op : Byte) (bs : List Byte), (∀ i : Instr, i.opcode ≠ op) → decode P (op :: bs) = .error .opcode

/-- R104: an operand outside its index space or legal set is refused. That a baud rate of 0 is outside it is read from R36
(log 16). -/
def Obligations.OperandChecks : Prop :=
  ∀ (P : Params) (bs : List Byte),
    (∀ op r : Byte, op ∈ [0x11, 0x12, 0x13, 0x14, 0x15] → 2 ≤ r.toNat → decode P (op :: r :: bs) = .error .ring) ∧
    (∀ r v : Byte, 2 ≤ r.toNat → decode P (0x10 :: r :: v :: bs) = .error .ring) ∧
    (∀ op d : Byte, op ∈ [0x31, 0x32, 0x33] → P.nDl ≤ d.toNat → decode P (op :: d :: bs) = .error .range) ∧
    (∀ d : Byte, P.nDl ≤ d.toNat → P.timeBytes ≤ bs.length → decode P (0x30 :: d :: bs) = .error .range) ∧
    (∀ op w : Byte, op ∈ [0x38, 0x39] → P.nSw ≤ w.toNat → decode P (op :: w :: bs) = .error .range) ∧
    (∀ i : Byte, P.channels.length ≤ i.toNat → decode P (0x64 :: i :: bs) = .error .range) ∧
    (∀ i : Byte, i ≠ 0 → decode P (0x71 :: i :: bs) = .error .range) ∧
    (∀ b0 b1 b2 b3 a : Byte, 2 ≤ a.toNat → decode P (0x50 :: b0 :: b1 :: b2 :: b3 :: a :: bs) = .error .bool) ∧
    (∀ a : Byte, a.toNat < 2 → decode P (0x50 :: 0 :: 0 :: 0 :: 0 :: a :: bs) = .error .range) ∧
    (∀ d f : Byte, 4 ≤ f.toNat → decode P (0xE1 :: d :: f :: bs) = .error .flags) ∧
    (∀ v0 v1 : Byte, 2 ^ P.wAdc ≤ v0.toNat + 256 * v1.toNat → decode P (0xE3 :: v0 :: v1 :: bs) = .error .range) ∧
    (∀ c : Byte, 2 ^ P.wCount ≤ c.toNat → 2 * P.timeBytes ≤ bs.length → decode P (0x80 :: c :: bs) = .error .range)

/-- R91, R93, R95: words written out from the tables decode to what they stand for (P0, 16-bit times). -/
def Obligations.DecodeWords : Prop :=
  decode .p0 [0x10, 0x00, 0x41] = .ok (.rbPush .rx 0x41, []) ∧
  decode .p0 [0x30, 0x01, 0x32, 0x00] = .ok (.dlNew 1 50, []) ∧
  decode .p0 [0x50, 0x00, 0x96, 0x00, 0x00, 0x01] = .ok (.spInit 38400 true, []) ∧
  decode .p0 [0x80, 0x02, 0xA0, 0x0F, 0xB8, 0x0B] = .ok (.blSignal 2 4000 3000, []) ∧
  decode .p0 [0xE1, 0x31, 0x01] = .ok (.envRx 0x31 true false, []) ∧
  decode .p0 [0xE3, 0x55, 0x01] = .ok (.envAdcDone 0x155, [])

/-! ### The step -/

/-- R2, R91: with no handler running and none to take, the foreground between operations performs the operation that the
issued bytes spell; an environment event, a reset among them, happens wherever the foreground stands (R68, R300). That
operations are issued from a list of words is the model's choice (log 2). -/
def Obligations.StepRunsIssued : Prop :=
  ∀ (s : State) (i : Instr) (rest : List Byte), s.cpu.handler = none → chooseIrq s = none →
    decode s.cfg s.issue = .ok (i, rest) → (s.fg = .idle ∨ i.isEnv = true) →
    step s = exec i { s with issue := rest }

/-- R266, R270, R10: a running handler performs its body and returns; the moves scheduled between its entry and its body
come first, and with nothing scheduled a step does no more than that. -/
def Obligations.StepRunsHandler : Prop :=
  ∀ (s t : State) (h : Handler), s.cpu.handler = some h →
    ((s.env = [] ∨ s.env.head? = some []) → exec h.body { s with env := s.env.tail } = .next t →
      step s = .next { t with cpu := { gie := true, handler := none } }) ∧
    (∀ g gs, s.env = g :: gs → Move.reset ∉ g → exec h.body (applyMoves g { s with env := gs }) = .next t →
      step s = .next { t with cpu := { gie := true, handler := none } })

/-- R267, R268, R10: a request that may be taken is taken by the next step; entry writes the two processor fields, TOV's
pending flag for TOV, and nothing else of the block (`draws` and `env` are the model's own). Where environment moves are
scheduled between the request and the entry, they come first, and the entry is that of a request true then. -/
def Obligations.StepTakesInterrupt : Prop :=
  ∀ s : State,
    (s.cpu.gie = true → s.cpu.handler = none → s.requests ≠ [] → (s.env = [] ∨ s.env.head? = some []) →
      ∃ h, s.request h = true ∧
      step s = .next { s with cpu := { gie := false, handler := some h },
                              hw := { s.hw with tovPending := if h = .tov then false else s.hw.tovPending },
                              draws := s.draws + 1, env := s.env.tail }) ∧
    (∀ g gs, s.cpu.gie = true → s.cpu.handler = none → s.requests ≠ [] → s.env = g :: gs → Move.irq ∉ g →
      Move.reset ∉ g → let u := applyMoves g { s with env := gs }
      ∃ h, u.request h = true ∧
      step s = .next { u with cpu := { gie := false, handler := some h },
                              hw := { u.hw with tovPending := if h = .tov then false else u.hw.tovPending },
                              draws := u.draws + 1 }) ∧
    (s.cpu.gie = false → chooseIrq s = none) ∧
    (s.cpu.handler ≠ none → chooseIrq s = none)

/-- R103, R104: bytes that spell no operation are refused by name when they are issued. -/
def Obligations.StepRefusesWords : Prop :=
  ∀ (s : State) (e : DecodeError), Ready s → chooseIrq s = none → s.issue ≠ [] → decode s.cfg s.issue = .error e →
    step s = .refused (.invalidWord e)

/-! ### Invariant and reset -/

/-- The state after reset meets the invariant, under every admitted set of parameters. -/
def Obligations.ResetInv : Prop := ∀ P : Params, P.valid = true → Inv (State.resetWith P)

/-- R21 to R33, R46 to R52: every step keeps the invariant. -/
def Obligations.StepKeepsInv : Prop := ∀ s t : State, Inv s → step s = .next t → Inv t

/-- R10, R182, R250, R272: under the invariant the foreground never stops inside an operation: each operation in progress
goes on; and a handler that runs completes, unless HOST resets the block between its entry and its body. -/
def Obligations.InProgressNeverStops : Prop :=
  ∀ s : State, Inv s →
    (s.cpu.handler = none → s.fg ≠ .idle → ∃ t, continueFg s = .next t) ∧
    (s.cpu.handler ≠ none → NoReset (s.env.take 1) → ∃ t, step s = .next t ∧ t.cpu = { gie := true, handler := none }) ∧
    (s.cpu.handler ≠ none → ∃ t, step s = .next t ∧ t.cpu.handler = none)

/-- R263, R272: under the invariant a step faults only where an issued operation reads what the spec gives no value:
a pop or top of an empty ring, a channel with no completed conversion, an unconstructed deadline or stopwatch, a payload
before the first `ExtReady`. -/
def Obligations.FaultOrigins : Prop :=
  ∀ (s : State) (r : Fault), Inv s → step s = .fault r →
    ∃ i rest, decode s.cfg s.issue = .ok (i, rest) ∧ s.cpu.handler = none ∧ s.fg = .idle ∧
      match r with
      | .popEmpty => ∃ sel, (i = .rbPop sel ∨ i = .rbTop sel) ∧ (s.ring sel).count = 0
      | .adcValueBeforeCompletion => ∃ c, (i = .adcValueOf c ∨ (i = .adcValue ∧ c = s.adc.cur)) ∧
          s.adc.valid[c]? = some false
      | .unconstructedDeadline => ∃ d D, (i = .dlElapsed d ∨ i = .dlRestart d) ∧ s.dl[d]? = some D ∧ D.made = false
      | .unconstructedStopwatch => ∃ w W, i = .swElapsedTime w ∧ s.sw[w]? = some W ∧ W.made = false
      | .payloadUnset => i = .cfPayload 0 ∧ s.cf.ready = false

/-- R55: what reset leaves, for the fields to which R55 gives a value. -/
def Obligations.ResetValues : Prop :=
  ∀ P : Params, let s := State.resetWith P
    s.sp.rx.count = 0 ∧ s.sp.tx.count = 0 ∧ s.sp.rx.head = 0 ∧ s.sp.rx.tail = 0 ∧ s.sp.tx.head = 0 ∧ s.sp.tx.tail = 0 ∧
    s.sp.rx.q P.nRx = [] ∧ s.sp.tx.q P.nTx = [] ∧ s.sp.loss = 0 ∧ s.sp.baud = P.baud ∧ s.sp.asyncTx = P.asyncTx ∧
    s.sp.progress = 0 ∧ s.bootRequest = 0 ∧ s.clk.tally = 0 ∧ s.cf.st = .idle ∧
    s.cf.deadline.duration = P.payloadTimeout ∧ s.cf.deadline.cancelled = false ∧ s.adc.cur = 0 ∧
    s.adc.inProgress = false ∧ s.adc.valid = List.replicate P.channels.length false ∧ s.bl.remaining = 0 ∧
    s.hw.tovPending = false ∧ s.hw.rxFrame = none ∧ s.hw.txEmpty = true ∧ s.hw.dreIe = false ∧ s.hw.adcReady = false ∧
    s.hw.adcBusy = none ∧ s.cpu.gie = false ∧ s.cpu.inIsr = false ∧ s.lineOut = []

/-! ### Rings -/

/-- R121: `RB.PUSH`, on the cursors and on the sequence. Where a direct push is answered (`RingReady`: inside ISR_RXC or
ISR_DRE, or in the foreground with `cpu.gie` 0 or no handler that touches the rings) is the model's choice (logs 14, 15,
31). -/
def Obligations.RbPush : Prop :=
  ∀ (r : RingSel) (v : Byte) (s : State), RingReady ringHandlers s →
    let n := capacity s.cfg r
    let R := s.ring r
    let R' : Ring := { R with buf := R.buf.set R.tail v, tail := (R.tail + 1) % n, count := R.count + 1 }
    encode s.cfg (.rbPush r v) = [0x10, r.byte, v] ∧
    (R.count = n → exec (.rbPush r v) s = .next (deliver (.bool false) s)) ∧
    (R.count ≠ n → exec (.rbPush r v) s = .next (deliver (.bool true) (s.withRing R' r))) ∧
    (RingOk n R → (R.q n).length = R.count ∧ (n = 0 → R.count = n)) ∧
    (RingOk n R → R.count ≠ n → RingOk n R' ∧ R'.q n = R.q n ++ [v])

/-- R122, R123: `RB.POP` and `RB.TOP`, on the cursors and on the sequence; on an empty ring they fault. Where a direct pop or
top is answered (`RingReady`) is the model's choice (logs 14, 15, 31). -/
def Obligations.RbPopTop : Prop :=
  ∀ (r : RingSel) (s : State), RingReady ringHandlers s →
    let n := capacity s.cfg r
    let R := s.ring r
    let R' : Ring := { R with head := (R.head + 1) % n, count := R.count - 1 }
    (R.count = 0 → exec (.rbPop r) s = .fault .popEmpty ∧ exec (.rbTop r) s = .fault .popEmpty) ∧
    (R.count ≠ 0 → exec (.rbPop r) s = .next (deliver (.byte (R.buf.getD R.head 0)) (s.withRing R' r)) ∧
      exec (.rbTop r) s = .next (deliver (.byte (R.buf.getD R.head 0)) s)) ∧
    (RingOk n R → R.count ≠ 0 → RingOk n R' ∧ R.q n = R.buf.getD R.head 0 :: R'.q n)

/-- R124, R125, R126: the three queries; they write nothing. Where a query is answered (`RingReady`: inside ISR_RXC or
ISR_DRE, or in the foreground and serialised) rests on the model's reading of R129, U11 and R281 (logs 14, 15, 31). -/
def Obligations.RbQueries : Prop :=
  ∀ (r : RingSel) (s : State), RingReady ringHandlers s →
    let n := capacity s.cfg r
    let R := s.ring r
    encode s.cfg (.rbEmpty r) = [0x13, r.byte] ∧ encode s.cfg (.rbFull r) = [0x14, r.byte] ∧
    encode s.cfg (.rbSize r) = [0x15, r.byte] ∧
    exec (.rbEmpty r) s = .next (deliver (.bool (decide (R.count = 0))) s) ∧
    exec (.rbFull r) s = .next (deliver (.bool (decide (R.count = n))) s) ∧
    exec (.rbSize r) s = .next (deliver (.count R.count) s) ∧
    (R.q n).length = R.count ∧
    (RingOk n R → R.count ≤ n ∧ (n = 0 → R.count = 0))

/-- R129, R312, U11, R281: every direct ring or filter access of the foreground is refused where it is unserialised, and
every ring operation is refused in the timer handler, whose body uses no ring (logs 14, 15). -/
def Obligations.RingRefusals : Prop :=
  ∀ (r : RingSel) (v : Byte) (s : State), ∀ i ∈ [Instr.rbPush r v, .rbPop r, .rbTop r, .rbEmpty r, .rbFull r, .rbSize r,
      .btfCheck v],
    (Ready s → s.cpu.gie = true → (s.cfg.rxIrq = true ∨ s.hw.dreIe = true) → exec i s = .refused .unserialised) ∧
    (s.cpu.handler = some .tov → exec i s = .refused .wrongContext)

/-! ### Clock -/

/-- R96: the layout of WideTime, and the two examples. -/
def Obligations.WideTimeLayout : Prop :=
  (∀ (P : Params) (tally cnt : Nat), tally < 2 ^ P.wOvf → cnt < 2 ^ P.wCnt →
    wideTime P tally cnt = (tally <<< P.wCnt) ||| cnt ∧ wideTime P tally cnt < 2 ^ P.wTime ∧
    (∀ j, j < P.wCnt → (wideTime P tally cnt).testBit j = cnt.testBit j) ∧
    (∀ j, (wideTime P tally cnt).testBit (P.wCnt + j) = tally.testBit j)) ∧
  (∀ P : Params, P.wCnt = 8 → wideTime P 0x12 0x34 = 0x1234) ∧
  (∀ P : Params, P.wCnt = 16 → wideTime P 0x0001 0xFFFF = 0x0001FFFF)

/-- R136: `CLK.PROCESS`. The field `writes` is the model's own (log 28). -/
def Obligations.ClkProcess : Prop :=
  ∀ s : State,
    encode s.cfg .clkProcess = [0x20] ∧
    (s.cpu.handler = some .tov → exec .clkProcess s =
      .next { s with clk := { tally := (s.clk.tally + 1) % 2 ^ s.cfg.wOvf, writes := s.clk.writes + 1 } }) ∧
    (s.cpu.handler ≠ some .tov → exec .clkProcess s = .refused .wrongContext)

/-- R137, R138, R141: `CLK.NOW` returns the clock at its second counter sample; where the two samples are equal and equal
samples retry, it samples again. No register of the block but the model's `result` is written. -/
def Obligations.ClkNow : Prop :=
  ∀ (n m : Nat) (rest : List (List Move)) (s : State),
    (Reading n m rest s → exec .clkNow s =
      .next (finish (.time (wideTime s.cfg s.clk.tally (s.hw.cnt + (n + m)))) (s.later (n + m) rest))) ∧
    (∀ r, s.env = [] :: (tallyGaps s.cfg ++ [] :: [] :: [] :: r) → Reading n m rest { s with env := r } →
      s.cfg.retryOnEqual = true → exec .clkNow s =
      .next (finish (.time (wideTime s.cfg s.clk.tally (s.hw.cnt + (n + m)))) (s.later (n + m) rest)))

/-- R139, under any schedule without a reset: with interrupts on, nothing pending, no overflow lost, and fewer than a full
period of ticks between N1 and N3, a `CLK.NOW` that returns within the machine step returns the number of ticks at N3,
modulo `2^W_TIME`: those before it and those of the gaps up to N3, which are all that were used but the last two (the gaps
after N3 and N4; fewer where the schedule has run out). The premises on the clock hold again afterwards, whether or not it
has returned. -/
def Obligations.ClkGuarantee : Prop :=
  ∀ s t : State, s.cfg.valid = true → Ready s → s.cpu.gie = true → s.requests = [] → Synced s → NoReset s.env →
    FewTicks (tallyParts s.cfg + 1) (2 ^ s.cfg.wCnt) s.env → exec .clkNow s = .next t →
    Synced t ∧ (t.fg = .idle → ∃ upToN3 afterN3, s.env = upToN3 ++ afterN3 ++ t.env ∧ afterN3.length ≤ 2 ∧
      (t.env ≠ [] → afterN3.length = 2) ∧
      t.result = .time ((s.ticks + (upToN3.map gapTicks).sum) % 2 ^ s.cfg.wTime))

/-! ### Deadlines and stopwatches -/

/-- R151: `DL.NEW`: what it writes with the value its `CLK.NOW` returns, when it completes, and its corner cases. -/
def Obligations.DlNew : Prop :=
  ∀ (d duration : Nat) (s : State),
    encode s.cfg (.dlNew d duration) = 0x30 :: BitVec.ofNat 8 d :: leBytes s.cfg.timeBytes duration ∧
    (s.cpu.handler ≠ none → exec (.dlNew d duration) s = .refused .wrongContext) ∧
    (∀ v t, d < s.dl.length → ReadsClock s v t → exec (.dlNew d duration) s = .next (finish .none
      { t with dl := s.dl.set d { base := v, duration := duration, cancelled := false, made := true } })) ∧
    (∀ n m rest, d < s.dl.length → Reading n m rest s → exec (.dlNew d duration) s = .next (finish .none
      { s.later (n + m) rest with
        dl := s.dl.set d
          { base := wideTime s.cfg s.clk.tally (s.hw.cnt + (n + m)), duration := duration, cancelled := false,
            made := true } })) ∧
    (∀ base, s.cfg.valid = true → elapsed s.cfg (addMod s.cfg.wTime base 1) base 0 = true ∧
      ∀ now, elapsed s.cfg now base (2 ^ s.cfg.wTime - 1) = false)

/-- R152, U3: `DL.ELAPSED`: a cancelled deadline answers false without a clock read, an armed one the strict comparison,
one never constructed faults. -/
def Obligations.DlElapsed : Prop :=
  ∀ (d : Nat) (D : Deadline) (s : State), s.dl[d]? = some D →
    (Ready s → D.made = false → exec (.dlElapsed d) s = .fault .unconstructedDeadline) ∧
    (Ready s → D.made = true → D.cancelled = true → exec (.dlElapsed d) s = .next (finish (.bool false) s)) ∧
    (∀ v t, D.made = true → D.cancelled = false → ReadsClock s v t → exec (.dlElapsed d) s = .next (finish
      (.bool (decide (D.duration < subMod s.cfg.wTime v D.base))) t)) ∧
    (∀ n m rest, D.made = true → D.cancelled = false → Reading n m rest s → exec (.dlElapsed d) s = .next (finish
      (.bool (decide (D.duration <
        subMod s.cfg.wTime (wideTime s.cfg s.clk.tally (s.hw.cnt + (n + m))) D.base))) (s.later (n + m) rest)))

/-- R153: `DL.RESTART`: the base is re-read and the deadline armed, the duration kept. On a deadline never constructed, whose
duration is unwritten, it faults (U3; the bit that tells it is the model's, log 12). -/
def Obligations.DlRestart : Prop :=
  ∀ (d : Nat) (D : Deadline) (s : State), s.dl[d]? = some D →
    encode s.cfg (.dlRestart d) = [0x32, BitVec.ofNat 8 d] ∧
    (s.cpu.handler ≠ none → exec (.dlRestart d) s = .refused .wrongContext) ∧
    (Ready s → D.made = false → exec (.dlRestart d) s = .fault .unconstructedDeadline) ∧
    (∀ v t, D.made = true → ReadsClock s v t → exec (.dlRestart d) s = .next (finish .none
      { t with dl := s.dl.set d { D with base := v, cancelled := false } })) ∧
    (∀ n m rest, D.made = true → Reading n m rest s → exec (.dlRestart d) s = .next (finish .none
      { s.later (n + m) rest with
        dl := s.dl.set d { D with base := wideTime s.cfg s.clk.tally (s.hw.cnt + (n + m)), cancelled := false } }))

/-- R154: `DL.CANCEL`: one field is written; until the deadline is armed again every query of it answers false, and only
`DL.NEW` and `DL.RESTART` of it (or a reset) arm it. -/
def Obligations.DlCancel : Prop :=
  ∀ (d : Nat) (D : Deadline) (s : State), s.dl[d]? = some D →
    encode s.cfg (.dlCancel d) = [0x33, BitVec.ofNat 8 d] ∧
    (Ready s → exec (.dlCancel d) s = .next (finish .none { s with dl := s.dl.set d { D with cancelled := true } })) ∧
    (Ready s → D.cancelled = true → exec (.dlCancel d) s = .next (finish .none s)) ∧
    (Ready s → D.cancelled = true → D.made = true → exec (.dlElapsed d) s = .next (finish (.bool false) s)) ∧
    (∀ i t, D.cancelled = true → rearms d i = false → NoReset s.env → exec i s = .next t →
      ∃ D', t.dl[d]? = some D' ∧ D'.cancelled = true)

/-- R155: `SW.NEW`: the base is the value its `CLK.NOW` returns. -/
def Obligations.SwNew : Prop :=
  ∀ (w : Nat) (s : State),
    encode s.cfg (.swNew w) = [0x38, BitVec.ofNat 8 w] ∧
    (s.cpu.handler ≠ none → exec (.swNew w) s = .refused .wrongContext) ∧
    (∀ v t, w < s.sw.length → ReadsClock s v t → exec (.swNew w) s = .next (finish .none
      { t with sw := s.sw.set w { base := v, made := true } })) ∧
    (∀ n m rest, w < s.sw.length → Reading n m rest s → exec (.swNew w) s = .next (finish .none
      { s.later (n + m) rest with
        sw := s.sw.set w { base := wideTime s.cfg s.clk.tally (s.hw.cnt + (n + m)), made := true } }))

/-- R156, U3: `SW.ELAPSED_TIME`: the difference modulo `2^W_TIME`; a stopwatch never constructed faults. -/
def Obligations.SwElapsedTime : Prop :=
  ∀ (w : Nat) (W : Stopwatch) (s : State), s.sw[w]? = some W →
    (Ready s → W.made = false → exec (.swElapsedTime w) s = .fault .unconstructedStopwatch) ∧
    (∀ v t, W.made = true → ReadsClock s v t →
      exec (.swElapsedTime w) s = .next (finish (.time (subMod s.cfg.wTime v W.base)) t)) ∧
    (∀ n m rest, W.made = true → Reading n m rest s → exec (.swElapsedTime w) s = .next (finish
      (.time (subMod s.cfg.wTime (wideTime s.cfg s.clk.tally (s.hw.cnt + (n + m))) W.base)) (s.later (n + m) rest)))

/-- R150, R157: `k` ticks after its base a deadline answers by `k` modulo `2^W_TIME`, whether or not the clock wrapped; so
inside the window it is false up to and including tick `base + duration` and true afterwards. -/
def Obligations.ElapsedWindow : Prop :=
  ∀ (P : Params) (base duration k : Nat), base < 2 ^ P.wTime →
    elapsed P (addMod P.wTime base k) base duration = decide (duration < k % 2 ^ P.wTime) ∧
    (k < 2 ^ P.wTime → (elapsed P (addMod P.wTime base k) base duration = true ↔ duration < k))

/-! ### Boot trigger filter -/

/-- R166, for the matcher of R167 (`matcherRetries` false, log 18): `BTF.CHECK` in the contexts where the model answers it:
inside ISR_RXC, or in the foreground with `cpu.gie` 0 or no handler that touches the rings (R281; the model's choice, logs
14, 15, 31). -/
def Obligations.BtfCheck : Prop :=
  ∀ (b : Byte) (s : State), RingReady [.rxc] s → s.cfg.matcherRetries = false →
    s.sp.progress < s.cfg.bootSeq.length →
    let p := if s.cfg.bootSeq[s.sp.progress]? = some b then s.sp.progress + 1 else 0
    encode s.cfg (.btfCheck b) = [0x40, b] ∧
    (p = s.cfg.bootSeq.length → exec (.btfCheck b) s = .next (deliver (.byte b)
      { s with sp := { s.sp with progress := 0 }, bootRequest := s.bootRequest + 1 })) ∧
    (p ≠ s.cfg.bootSeq.length → exec (.btfCheck b) s = .next (deliver (.byte b)
      { s with sp := { s.sp with progress := p } }))

/-- R166, R167, R168: a whole trigger sequence seen from the start signals once, whichever matcher is taken, and leaves the
filter at its start; the filter writes nothing else. -/
def Obligations.BootSequence : Prop :=
  ∀ s : State, s.sp.progress = 0 → s.cfg.bootSeq ≠ [] →
    s.cfg.bootSeq.foldl (fun u b => filterByte b u) s = { s with bootRequest := s.bootRequest + 1 }

/-! ### Serial port -/

/-- R177, U13, R36: `SP.INIT`, once since reset; `inited` is the model's bit for that (log 23). A baud rate that is not
positive is refused (log 16). -/
def Obligations.SpInit : Prop :=
  ∀ (baud : BitVec 32) (async : Bool) (s : State), Ready s →
    (baud ≠ 0 → s.sp.inited = false → exec (.spInit baud async) s = .next (finish .none
      { s with sp := { rx := { s.sp.rx with head := 0, tail := 0, count := 0 },
                       tx := { s.sp.tx with head := 0, tail := 0, count := 0 },
                       loss := 0, baud := baud.toNat, asyncTx := async, inited := true, progress := 0 },
               hw := { s.hw with dreIe := false } })) ∧
    (baud ≠ 0 → s.sp.inited = true → exec (.spInit baud async) s = .refused .alreadyInitialised) ∧
    exec (.spInit 0 async) s = .refused .operandRange

/-- R178, R179, R180: the two emptiness queries, and `SP.TX_READY` beside them, whose "not full" R180 marks as this spec's
own reading (D16); the two look at no hardware flag, none of the three writes. -/
def Obligations.SpQueries : Prop :=
  ∀ s : State, Ready s →
    encode s.cfg .spEmpty = [0x51] ∧ encode s.cfg .spTxEmpty = [0x52] ∧
    exec .spEmpty s = .next (finish (.bool (decide (s.sp.rx.count = 0))) s) ∧
    exec .spTxEmpty s = .next (finish (.bool (decide (s.sp.tx.count = 0))) s) ∧
    exec .spTxReady s = .next (finish (.bool (decide (s.sp.tx.count < s.cfg.nTx))) s) ∧
    (∀ h : Periph,
      exec .spEmpty { s with hw := h } = .next (finish (.bool (decide (s.sp.rx.count = 0))) { s with hw := h }) ∧
      exec .spTxEmpty { s with hw := h } = .next (finish (.bool (decide (s.sp.tx.count = 0))) { s with hw := h })) ∧
    (RingOk s.cfg.nTx s.sp.tx → s.cfg.nTx = 0 → s.sp.tx.count = 0)

/-- R181: `SP.READ` with the environment quiet and no handler to run before its poll: a byte that waits in the ring is
popped; else the poll takes a good frame through the ring, and interrupts are on afterwards; a frame with a framing error
is discarded and the loop goes on; with no frame it stays in its loop, which a step of the machine only repeats (R193).
R320: requests held back while the read was issued are served when the poll's `SEI` has enabled interrupts, and then the
read returns the polled byte or stays in its loop. -/
def Obligations.SpRead : Prop :=
  ∀ s : State, Alone s →
    (s.sp.rx.count ≠ 0 → exec .spRead s = .next (finish (.byte (s.sp.rx.buf.getD s.sp.rx.head 0))
      { s with sp := { s.sp with rx := { s.sp.rx with head := (s.sp.rx.head + 1) % s.cfg.nRx,
                                                      count := s.sp.rx.count - 1 } } })) ∧
    (∀ f, s.sp.rx.count = 0 → s.hw.rxFrame = some f → f.fe = false → s.requests = [] → RingOk s.cfg.nRx s.sp.rx →
      s.cfg.nRx ≠ 0 → ∃ R, RingOk s.cfg.nRx R ∧ R.count = 0 ∧ exec .spRead s = .next (finish (.byte f.data)
        { intrRx f s with sp := { (intrRx f s).sp with rx := R }, cpu := { s.cpu with gie := true } })) ∧
    (s.sp.rx.count = 0 → s.hw.rxFrame = none → s.requests = [] →
      let u := { s with cpu := { s.cpu with gie := true }, fg := Fg.rd1 }
      exec .spRead s = .next u ∧ step { u with issue := [] } = .next { u with issue := [] }) ∧
    (∀ f, s.sp.rx.count = 0 → s.hw.rxFrame = some f → f.fe = true → s.requests = [] →
      let u := { intrRx f s with cpu := { s.cpu with gie := true }, fg := Fg.rd1 }
      u.hw.rxFrame = none ∧ u.sp.rx = s.sp.rx ∧ u.sp.progress = s.sp.progress ∧
      exec .spRead s = .next u ∧ step { u with issue := [] } = .next { u with issue := [] }) ∧
    (s.sp.rx.count = 0 →
      let u := serveAll { processRx s with cpu := { gie := true, handler := none }, fg := Fg.rd1 }
      u.requests = [] ∧ u.cpu = { gie := true, handler := none } ∧ u.sp.rx = (processRx s).sp.rx ∧
      (u.sp.rx.count = 0 → exec .spRead s = .next u) ∧
      (u.sp.rx.count ≠ 0 → exec .spRead s = .next (finish (.byte (u.sp.rx.buf.getD u.sp.rx.head 0))
        { u with sp := { u.sp with rx := { u.sp.rx with head := (u.sp.rx.head + 1) % s.cfg.nRx,
                                                        count := u.sp.rx.count - 1 } } })))

/-- R182: `SP.WRITE` with nothing beside it: a free slot takes the byte and the DRE interrupt is armed when transmission is
asynchronous; a full ring is drained by one byte when the hardware is ready; an unbuffered port sends; behind a busy
transmitter a full ring, or an unbuffered port, leaves the write in its loop (R193). -/
def Obligations.SpWrite : Prop :=
  ∀ (b : Byte) (s : State), Alone s →
    let push (R : Ring) : Ring :=
      { R with buf := R.buf.set R.tail b, tail := (R.tail + 1) % s.cfg.nTx, count := R.count + 1 }
    let pop (R : Ring) : Ring := { R with head := (R.head + 1) % s.cfg.nTx, count := R.count - 1 }
    (s.cfg.nTx ≠ 0 → s.sp.tx.count < s.cfg.nTx → exec (.spWrite b) s = .next (finish .none
      { s with sp := { s.sp with tx := push s.sp.tx }, hw := { s.hw with dreIe := s.hw.dreIe || s.sp.asyncTx } })) ∧
    (s.cfg.nTx ≠ 0 → s.sp.tx.count = s.cfg.nTx → s.hw.txEmpty = true → exec (.spWrite b) s = .next (finish .none
      { s with sp := { s.sp with tx := push (pop s.sp.tx) },
               hw := { s.hw with txEmpty := false, dreIe := s.hw.dreIe || s.sp.asyncTx },
               lineOut := s.lineOut ++ [s.sp.tx.buf.getD s.sp.tx.head 0] })) ∧
    (s.cfg.nTx = 0 → s.hw.txEmpty = true → exec (.spWrite b) s = .next (finish .none
      { s with hw := { s.hw with txEmpty := false }, lineOut := s.lineOut ++ [b] })) ∧
    (s.cfg.nTx ≠ 0 → s.sp.tx.count = s.cfg.nTx → s.hw.txEmpty = false →
      exec (.spWrite b) s = .next { s with fg := .w3 b } ∧
      step { s with fg := .w3 b, issue := [] } = .next { s with fg := .w2 b, issue := [] } ∧
      step { s with fg := .w2 b, issue := [] } = .next { s with fg := .w3 b, issue := [] }) ∧
    (s.cfg.nTx = 0 → s.hw.txEmpty = false →
      exec (.spWrite b) s = .next { s with fg := .w1a b } ∧
      step { s with fg := .w1a b, issue := [] } = .next { s with fg := .w1a b, issue := [] })

/-- R183, R186, R193: `SP.FLUSH` returns at once on an empty ring; when the transmitter becomes ready after each byte it
sends the whole ring in order and returns; behind a transmitter that stays busy it stays in its loop. -/
def Obligations.SpFlush : Prop :=
  ∀ s : State, Ready s →
    (s.sp.tx.count = 0 → exec .spFlush s = .next (finish .none s)) ∧
    (∀ rest, Undisturbed s → s.hw.txEmpty = true → RingOk s.cfg.nTx s.sp.tx → s.sp.tx.count ≠ 0 →
      s.env = (List.replicate s.sp.tx.count [[], [Move.event .txDone]]).flatten ++ rest →
      ∃ R, RingOk s.cfg.nTx R ∧ R.count = 0 ∧ exec .spFlush s = .next (finish .none
        { s with sp := { s.sp with tx := R }, lineOut := s.lineOut ++ s.sp.tx.q s.cfg.nTx, env := rest })) ∧
    (s.env = [] → Undisturbed s → s.sp.tx.count ≠ 0 → s.hw.txEmpty = false →
      exec .spFlush s = .next { s with fg := .f2 } ∧
      step { s with fg := .f2, issue := [] } = .next { s with fg := .f1, issue := [] } ∧
      step { s with fg := .f1, issue := [] } = .next { s with fg := .f2, issue := [] })

/-- R185, R262, R169, R184: what receiving one frame does, in the handler and in the foreground's poll: the frame is
consumed, a hardware overflow is counted, a framing error discards the byte unseen, any other byte passes the filter and
is pushed, and one that finds the ring full is dropped and counted. Nothing else of the block is written. With no frame
waiting the poll does nothing and `SP.INTR_RX` is refused (U12). -/
def Obligations.SpReceive : Prop :=
  ∀ s : State,
    (∀ f, s.hw.rxFrame = some f → FitsWidth s.cfg.wLoss s.sp.loss →
      let full := decide (s.sp.rx.count = s.cfg.nRx)
      let lost := (if f.ovf then 1 else 0) + (if !f.fe && full then 1 else 0)
      let seen := if f.fe then s else filterByte f.data s
      let u : State :=
        { s with
          hw := { s.hw with rxFrame := none }
          bootRequest := seen.bootRequest
          sp := { s.sp with
            loss := (s.sp.loss + lost) % 2 ^ s.cfg.wLoss
            progress := seen.sp.progress
            rx := if f.fe || full then s.sp.rx else
              { s.sp.rx with buf := s.sp.rx.buf.set s.sp.rx.tail f.data, tail := (s.sp.rx.tail + 1) % s.cfg.nRx,
                             count := s.sp.rx.count + 1 } }
          isrResult := .bool (!f.fe)
          past := { s.past with conditions := s.past.conditions ++ (if f.ovf then [.rxHardwareOverflow] else []) ++
            (if f.fe then [.framingError] else []) ++ (if !f.fe && full then [.rxBufferFull] else []) } }
      (s.cpu.handler = some .rxc → exec .spIntrRx s = .next u) ∧
      (Ready s → exec .spProcessRx s = .next (finish .none u))) ∧
    (s.hw.rxFrame = none → Ready s → exec .spProcessRx s = .next (finish .none s)) ∧
    (s.hw.rxFrame = none → s.cpu.handler = some .rxc → exec .spIntrRx s = .refused .noFrame)

/-- R186, R187: one byte is sent if the ring holds one and the hardware is ready; `SP.INTR_TX` then disarms the DRE
interrupt if the ring is empty. Nothing else of the block is written. -/
def Obligations.SpTransmit : Prop :=
  ∀ s : State,
    let pop : Ring := { s.sp.tx with head := (s.sp.tx.head + 1) % s.cfg.nTx, count := s.sp.tx.count - 1 }
    let line := s.lineOut ++ [s.sp.tx.buf.getD s.sp.tx.head 0]
    (Ready s → s.sp.tx.count ≠ 0 → s.hw.txEmpty = true → exec .spProcessTx s = .next (finish .none
      { s with sp := { s.sp with tx := pop }, hw := { s.hw with txEmpty := false }, lineOut := line })) ∧
    (Ready s → (s.sp.tx.count = 0 ∨ s.hw.txEmpty = false) → exec .spProcessTx s = .next (finish .none s)) ∧
    (s.cpu.handler = some .dre → s.sp.tx.count ≠ 0 → s.hw.txEmpty = true → exec .spIntrTx s = .next
      { s with sp := { s.sp with tx := pop }, lineOut := line,
               hw := { s.hw with txEmpty := false, dreIe := s.hw.dreIe && decide (s.sp.tx.count ≠ 1) } }) ∧
    (s.cpu.handler = some .dre → s.sp.tx.count ≠ 0 → s.hw.txEmpty = false → exec .spIntrTx s = .next s) ∧
    (s.cpu.handler = some .dre → s.sp.tx.count = 0 → exec .spIntrTx s = .next
      { s with hw := { s.hw with dreIe := false } })

/-- R188, R189: the loss counter is read and cleared. It counts, in the handler and in the foreground's poll alike, each
RX hardware overflow and each byte that finds the buffer full (modulo `2^W_LOSS`); a framing-error discard is not
counted. -/
def Obligations.SpLoss : Prop :=
  ∀ s : State,
    encode s.cfg .spOverflow = [0x5B] ∧ encode s.cfg .spClearOverflow = [0x5C] ∧
    (Ready s → exec .spOverflow s = .next (finish (.loss s.sp.loss) s)) ∧
    (Ready s → exec .spClearOverflow s = .next (finish .none { s with sp := { s.sp with loss := 0 } })) ∧
    (∀ t, Ready s → exec .spClearOverflow s = .next t → exec .spOverflow t = .next (finish (.loss 0) t)) ∧
    (∀ f, s.hw.rxFrame = some f → FitsWidth s.cfg.wLoss s.sp.loss →
      let overflow := if f.ovf then 1 else 0
      let dropped := if f.fe = false ∧ s.sp.rx.count = s.cfg.nRx then 1 else 0
      (s.cpu.handler = some .rxc →
        ∃ t, exec .spIntrRx s = .next t ∧ t.sp.loss = (s.sp.loss + overflow + dropped) % 2 ^ s.cfg.wLoss) ∧
      (Ready s →
        ∃ t, exec .spProcessRx s = .next t ∧ t.sp.loss = (s.sp.loss + overflow + dropped) % 2 ^ s.cfg.wLoss)) ∧
    (∀ f t, s.hw.rxFrame = some f → f.fe = true → f.ovf = false →
      (exec .spIntrRx s = .next t ∨ exec .spProcessRx s = .next t) → t.sp.loss = s.sp.loss)

/-- R185, R191, R194: receiving a stream of frames, with nothing popped: the ring holds, after what it held, the data of
the good frames in order as far as they fit, and the counter has risen by the hardware overflows and the dropped
bytes. -/
def Obligations.ReceiveStream : Prop :=
  ∀ (fs : List Frame) (s : State), RingOk s.cfg.nRx s.sp.rx → FitsWidth s.cfg.wLoss s.sp.loss →
    let good := (fs.filter fun f => !f.fe).map Frame.data
    let room := s.cfg.nRx - s.sp.rx.count
    let t := fs.foldl (fun u f => intrRx f u) s
    RingOk s.cfg.nRx t.sp.rx ∧ t.sp.rx.q s.cfg.nRx = s.sp.rx.q s.cfg.nRx ++ good.take room ∧
    t.sp.loss = (s.sp.loss + (fs.filter Frame.ovf).length + (good.length - room)) % 2 ^ s.cfg.wLoss

/-- R192: transmit ordering, under any schedule of the environment and of interrupts without a reset: the bytes on the
line, those still in the ring and the one that an `SP.WRITE` in its loop has still to push are, in order, those that
were there before, with the byte of an `SP.WRITE` after them; no other operation (direct ring accesses, `SP.INIT` and a
reset apart) adds, drops or reorders one, and no step that goes on with an operation, takes an interrupt or runs a
handler does. -/
def Obligations.TransmitOrder : Prop :=
  (∀ (i : Instr) (s t : State), Inv s → NoReset s.env → exec i s = .next t →
    (∀ b, i = .spWrite b → t.fg = .idle →
      t.lineOut ++ t.sp.tx.q t.cfg.nTx = s.lineOut ++ s.sp.tx.q s.cfg.nTx ++ [b]) ∧
    (∀ b, i = .spWrite b → t.transmitted = s.transmitted ++ [b]) ∧
    (i ≠ .envReset → i ≠ .rbPop .tx → (∀ b, i ≠ .spWrite b) → (∀ b, i ≠ .rbPush .tx b) →
      (∀ baud async, i ≠ .spInit baud async) →
      t.lineOut ++ t.sp.tx.q t.cfg.nTx = s.lineOut ++ s.sp.tx.q s.cfg.nTx ∧ t.toSend = s.toSend)) ∧
  (∀ s t : State, Inv s → NoReset s.env → step s = .next t →
    (s.cpu.handler = none → chooseIrq s = none → fetch s = .goOn → t.transmitted = s.transmitted) ∧
    ((s.cpu.handler ≠ none ∨ chooseIrq s ≠ none) → t.transmitted = s.transmitted))

/-! ### Analog-to-digital scanner -/

/-- R212: `ADC.PROCESS` reports a completed conversion exactly once. -/
def Obligations.AdcProcess : Prop :=
  ∀ s : State,
    let u : State :=
      { s with adc := { s.adc with latest := s.adc.latest.set s.adc.cur s.hw.adcResult,
                                   valid := s.adc.valid.set s.adc.cur true, inProgress := false } }
    encode s.cfg .adcProcess = [0x60] ∧
    (Ready s → s.adc.inProgress = true → s.hw.adcReady = true →
      exec .adcProcess s = .next (finish (.bool true) u) ∧
      exec .adcProcess (finish (.bool true) u) = .next (finish (.bool false) u)) ∧
    (Ready s → (s.adc.inProgress = false ∨ s.hw.adcReady = false) →
      exec .adcProcess s = .next (finish (.bool false) s))

/-- R211, R214, U10: with no conversion in flight `ADC.START` starts the current channel and `ADC.NEXT` the next one,
wrapping; with one in flight both are refused. -/
def Obligations.AdcStartNext : Prop :=
  ∀ (c : Channel) (s : State), Ready s →
    (s.adc.inProgress = false → s.cfg.channels[s.adc.cur]? = some c → exec .adcStart s = .next (finish .none
      { s with hw := { s.hw with adcReady := false, adcBusy := some c.ch },
               adc := { s.adc with inProgress := true } })) ∧
    (∀ k, k = (if s.adc.cur + 1 = s.cfg.channels.length then 0 else s.adc.cur + 1) →
      s.adc.cur < s.cfg.channels.length → s.adc.inProgress = false → s.cfg.channels[k]? = some c →
      exec .adcNext s = .next (finish .none
        { s with hw := { s.hw with adcReady := false, adcBusy := some c.ch },
                 adc := { s.adc with cur := k, inProgress := true } })) ∧
    (s.adc.inProgress = true → exec .adcStart s = .refused .conversionInFlight ∧
      exec .adcNext s = .refused .conversionInFlight)

/-- R213, R215, R217, U5: the latest value of a channel, unmodified; before the channel's first completion both reads
fault. -/
def Obligations.AdcValues : Prop :=
  ∀ (i v : Nat) (s : State), Ready s → s.adc.latest[i]? = some v →
    (s.adc.valid[i]? = some true → exec (.adcValueOf i) s = .next (finish (.sample v) s)) ∧
    (s.adc.valid[i]? = some true → s.adc.cur = i → exec .adcValue s = .next (finish (.sample v) s)) ∧
    (s.adc.valid[i]? = some false → exec (.adcValueOf i) s = .fault .adcValueBeforeCompletion) ∧
    (s.adc.valid[i]? = some false → s.adc.cur = i → exec .adcValue s = .fault .adcValueBeforeCompletion)

/-! ### Command framer -/

/-- R227: `CF.PUSH_DATA` in its four cases, with the value its `CLK.NOW` returns, and when the two cases that read the clock
complete. -/
def Obligations.CfPushData : Prop :=
  ∀ (b : Byte) (s : State),
    let armed (v : Nat) : Framer :=
      { s.cf with st := .awaitingPayload, deadline := { s.cf.deadline with base := v, cancelled := false, made := true } }
    let late (v : Nat) : Bool := decide (s.cfg.payloadTimeout < subMod s.cfg.wTime v s.cf.deadline.base)
    encode s.cfg (.cfPushData b) = [0x70, b] ∧
    (Ready s → s.cf.st = .idle → b ≠ s.cfg.extMarker →
      exec (.cfPushData b) s = .next (finish (.event (.cmd b)) s)) ∧
    (∀ v t, s.cf.st = .idle → b = s.cfg.extMarker → ReadsClock s v t →
      exec (.cfPushData b) s = .next (finish (.event .pending) { t with cf := armed v })) ∧
    (∀ v t, s.cf.st = .awaitingPayload → late v = true → ReadsClock s v t → exec (.cfPushData b) s = .next (finish
      (.event .bad) (raise .payloadTimeout { t with cf := { s.cf with st := .idle } }))) ∧
    (∀ v t, s.cf.st = .awaitingPayload → late v = false → ReadsClock s v t → exec (.cfPushData b) s = .next (finish
      (.event .extReady) { t with cf := { s.cf with st := .idle, payload := b, ready := true } })) ∧
    (∀ n m rest, Reading n m rest s → (s.cf.st = .awaitingPayload ∨ b = s.cfg.extMarker) →
      let v := wideTime s.cfg s.clk.tally (s.hw.cnt + (n + m))
      exec (.cfPushData b) s = .next (match s.cf.st with
        | .idle => finish (.event .pending) { s.later (n + m) rest with cf := armed v }
        | .awaitingPayload =>
          if late v then
            finish (.event .bad) (raise .payloadTimeout { s.later (n + m) rest with cf := { s.cf with st := .idle } })
          else finish (.event .extReady)
            { s.later (n + m) rest with cf := { s.cf with st := .idle, payload := b, ready := true } }))

/-- R230, R232: the marker and then, `p + q` ticks after its clock sample, any second byte (the marker itself too): in time
up to and including `PAYLOAD_TIMEOUT` ticks, late from the next tick on; either way the framer is idle again. -/
def Obligations.CfBoundary : Prop :=
  ∀ (b : Byte) (n m p q : Nat) (rest next : List (List Move)) (s t : State), s.cf.st = .idle → Reading n m next s →
    exec (.cfPushData s.cfg.extMarker) s = .next t → Reading p q rest t → s.cfg.valid = true →
    t.result = .event .pending ∧ ∃ u, exec (.cfPushData b) t = .next u ∧ u.cf.st = .idle ∧ u.fg = .idle ∧
      (p + q ≤ s.cfg.payloadTimeout → u.result = .event .extReady ∧ u.cf.payload = b ∧
        exec (.cfPayload 0) u = .next (finish (.byte b) u)) ∧
      (s.cfg.payloadTimeout < p + q → u.result = .event .bad ∧ u.cf.payload = s.cf.payload)

/-- R228, U4: `CF.PAYLOAD 0` after the first `ExtReady`; before it the read faults. -/
def Obligations.CfPayload : Prop :=
  ∀ s : State, Ready s →
    (s.cf.ready = true → exec (.cfPayload 0) s = .next (finish (.byte s.cf.payload) s)) ∧
    (s.cf.ready = false → exec (.cfPayload 0) s = .fault .payloadUnset)

/-! ### Blink signaller -/

/-- R241: `BL.SIGNAL` writes all fields, whatever sequence was running: all but the phase start in a step before its clock
read, with a gap after it (log 30). With a count of 0 no later `BL.PROCESS` changes them. -/
def Obligations.BlSignal : Prop :=
  ∀ (count on off : Nat) (s : State),
    let armed (v : Nat) : Blinker :=
      { remaining := count, onDur := on, offDur := off, active := true, phaseStart := v, out := .high }
    encode s.cfg (.blSignal count on off) =
      0x80 :: BitVec.ofNat 8 count :: (leBytes s.cfg.timeBytes on ++ leBytes s.cfg.timeBytes off) ∧
    (∀ g gs v t, Ready s → s.env = g :: gs → Move.reset ∉ g → ReadsClock (gap g { s with env := gs }) v t →
      exec (.blSignal count on off) s = .next (finish .none { t with bl := armed v })) ∧
    (∀ n m rest r, s.env = [] :: r → Reading n m rest { s with env := r } → exec (.blSignal count on off) s = .next (finish .none
      { s.later (n + m) rest with bl := armed (wideTime s.cfg s.clk.tally (s.hw.cnt + (n + m))) })) ∧
    (∀ t, NoReset s.env → exec (.blSignal 0 on off) s = .next t → t.fg = .idle →
      t.bl.out = .high ∧ exec .blProcess t = .next (finish .none t))

/-- R242, R243: `BL.PROCESS` makes at most one transition, by the clock value it reads; after the last pulse the output is
low, and with `remaining` 0 the call does nothing. -/
def Obligations.BlProcess : Prop :=
  ∀ s : State,
    let moved (v : Nat) : Blinker :=
      if s.bl.active then
        if s.bl.onDur < subMod s.cfg.wTime v s.bl.phaseStart then
          { s.bl with out := .low, active := false, phaseStart := v, remaining := s.bl.remaining - 1 }
        else s.bl
      else
        if s.bl.offDur < subMod s.cfg.wTime v s.bl.phaseStart then
          { s.bl with out := .high, active := true, phaseStart := v }
        else s.bl
    (Ready s → s.bl.remaining = 0 → exec .blProcess s = .next (finish .none s)) ∧
    (∀ v t, s.bl.remaining ≠ 0 → ReadsClock s v t → exec .blProcess s = .next (finish .none { t with bl := moved v })) ∧
    (∀ n m rest, s.bl.remaining ≠ 0 → Reading n m rest s → exec .blProcess s = .next (finish .none
      { s.later (n + m) rest with bl := moved (wideTime s.cfg s.clk.tally (s.hw.cnt + (n + m))) })) ∧
    (∀ t, s.bl.remaining ≠ 0 → NoReset s.env → exec .blProcess s = .next t → t.fg = .idle → t.bl.remaining = 0 →
      t.bl.out = .low ∧ t.bl.active = false)

/-! ### Pump, wait, interrupt control -/

/-- R250: `PUMP` makes one receive poll, one transmit step, one scan step (which reports a completed conversion and starts
the next) and, while a sequence runs, one blink step. With nothing beside it and no sequence running, every order of the
sub-components leaves the same state; with a sequence running too, where only ticks inside the clock reading come
between its steps: the blink step takes the clock value at its sample. -/
def Obligations.Pump : Prop :=
  ∀ s : State, s.cfg.valid = true →
    (Alone s → s.bl.remaining = 0 →
      exec .pump s = .next (finish .none (scanAdvance (drainOne (processRx s))))) ∧
    (∀ n m before after rest, s.cfg.pumpOrder = before ++ .blink :: after → s.bl.remaining ≠ 0 →
      s.env = pumpGaps before s ++ tickGap n :: (tallyGaps s.cfg ++ tickGap m :: [] :: [] :: (pumpGaps after s ++ rest)) →
      Reading n m rest { s with env := tickGap n :: (tallyGaps s.cfg ++ tickGap m :: [] :: [] :: rest) } →
      exec .pump s = .next (finish .none (blinkAt (wideTime s.cfg s.clk.tally (s.hw.cnt + (n + m)))
        (State.later (n + m) rest (scanAdvance (drainOne (processRx s)))))))

/-- R251, R252: `WAIT` returns at the first test made more than `duration` ticks after its start: here the first one, with
no `PUMP`. A first test made in time is followed by a `PUMP` (WT4) and the loop is then at its next clock reading (WT2):
with the environment quiet from there on and no sequence blinking, in the state after one receive poll, one transmit step
and one scan step, at N2 of that reading, or before it where equal samples are accepted and a further reading would only
repeat. Whatever blinks, it does not return there. -/
def Obligations.Wait : Prop :=
  ∀ (duration a b p c d : Nat) (rest : List (List Move)) (s : State), Ready s → Undisturbed s → s.cfg.valid = true →
    s.env = tickGap a :: (tallyGaps s.cfg ++ tickGap b :: [] :: [] :: tickGap p ::
      tickGap c :: (tallyGaps s.cfg ++ tickGap d :: [] :: [] :: rest)) →
    s.hw.cnt + (a + b + p + c + d) < 2 ^ s.cfg.wCnt →
    (0 < a + b ∨ s.cfg.retryOnEqual = false) → (0 < c + d ∨ s.cfg.retryOnEqual = false) →
    let start := wideTime s.cfg s.clk.tally (s.hw.cnt + (a + b))
    let tested := s.later (a + b + p + c + d) rest
    let next := if s.cfg.retryOnEqual then NowPhase.n2 tested.hw.cnt else NowPhase.n1
    (duration < p + c + d → exec (.wait duration) s = .next (finish .none tested)) ∧
    (p + c + d ≤ duration → rest = [] → s.bl.remaining = 0 → exec (.wait duration) s =
      .next { scanAdvance (drainOne (processRx tested)) with fg := .now next (.waitTest start duration) }) ∧
    (p + c + d ≤ duration → rest = [] → ∀ t, exec (.wait duration) s = .next t → t.fg ≠ .idle)

/-- R273, R274: `CLI` and `SEI` write the interrupt enable and nothing else. -/
def Obligations.InterruptControl : Prop :=
  ∀ s : State, Ready s →
    exec .cli s = .next (finish .none { s with cpu := { s.cpu with gie := false } }) ∧
    exec .sei s = .next (finish .none { s with cpu := { s.cpu with gie := true } })

/-! ### Environment and reset -/

/-- R46, R47, R100: `ENV.TICK n`: where no handler runs between the ticks the counter advances by `n` modulo `2^W_CNT`, a
wrap makes TOV pending, and nothing else of the block is written. With interrupts on, every wrap is counted by its handler
before the next tick, so the clock still counts every tick once the last one's handler has run. -/
def Obligations.EnvTick : Prop :=
  ∀ (n : Nat) (s : State),
    (s.mayTake = false → s.hw.cnt < 2 ^ s.cfg.wCnt → exec (.envTick n) s = .next { s with
      hw := { s.hw with cnt := (s.hw.cnt + n) % 2 ^ s.cfg.wCnt,
                        tovPending := s.hw.tovPending || decide (2 ^ s.cfg.wCnt ≤ s.hw.cnt + n) }
      ticks := s.ticks + n }) ∧
    (s.cfg.valid = true → s.mayTake = true → Synced s →
      ∃ t, exec (.envTick n) s = .next t ∧ t.ticks = s.ticks + n ∧ Synced (serveAll t))

/-- R48, R49, R51: the other environment events, where they are enabled. That the word of an event that is not enabled is
refused is the model's choice: the rules only say when an event is enabled (log 27). -/
def Obligations.EnvEvents : Prop :=
  ∀ (data : Byte) (ovf fe : Bool) (v : Nat) (s : State),
    (s.hw.rxFrame = none → exec (.envRx data ovf fe) s =
      .next { s with hw := { s.hw with rxFrame := some ⟨data, ovf, fe⟩ } }) ∧
    (s.hw.rxFrame ≠ none → exec (.envRx data ovf fe) s = .refused .eventNotEnabled) ∧
    (s.hw.txEmpty = false → exec .envTxDone s = .next { s with hw := { s.hw with txEmpty := true } }) ∧
    (s.hw.txEmpty = true → exec .envTxDone s = .refused .eventNotEnabled) ∧
    (s.hw.adcBusy ≠ none → v < 2 ^ s.cfg.wAdc → exec (.envAdcDone v) s =
      .next { s with hw := { s.hw with adcResult := v, adcReady := true, adcBusy := none } }) ∧
    (s.hw.adcBusy = none → exec (.envAdcDone v) s = .refused .eventNotEnabled)

/-- R300, R55: a hardware reset from any state completes: the fields R55 gives values to take them, the parameters stay,
the invariant holds, and what was sent, signalled and raised before stays in the histories (log 9). The values of the
other fields are free (log 8). R68, R300: it happens wherever the block stands, and the operation or handler in progress
is abandoned: at a machine step with no handler to run, in the gap before a handler's entry or body, and in the gap
after any labelled step of a composite operation, with the moves and handler runs before it in the gap made and those
after it made in the reset block (log 3). -/
def Obligations.EnvReset : Prop :=
  (∀ s : State, ∃ t, exec .envReset s = .next t ∧ t.cfg = s.cfg ∧ (s.cfg.valid = true → Inv t) ∧
    t.sp.rx.count = 0 ∧ t.sp.tx.count = 0 ∧ t.sp.rx.head = 0 ∧ t.sp.rx.tail = 0 ∧ t.sp.tx.head = 0 ∧ t.sp.tx.tail = 0 ∧
    t.sp.loss = 0 ∧ t.sp.baud = s.cfg.baud ∧ t.sp.asyncTx = s.cfg.asyncTx ∧ t.sp.inited = false ∧ t.sp.progress = 0 ∧
    t.bootRequest = 0 ∧ t.clk.tally = 0 ∧ t.cf.st = .idle ∧ t.cf.ready = false ∧
    t.cf.deadline.duration = s.cfg.payloadTimeout ∧ t.cf.deadline.cancelled = false ∧ t.adc.cur = 0 ∧
    t.adc.inProgress = false ∧ t.adc.valid = List.replicate s.cfg.channels.length false ∧ t.bl.remaining = 0 ∧
    (∀ D ∈ t.dl, D.made = false) ∧ (∀ W ∈ t.sw, W.made = false) ∧ t.hw.tovPending = false ∧ t.hw.rxFrame = none ∧
    t.hw.txEmpty = true ∧ t.hw.dreIe = false ∧ t.hw.adcReady = false ∧ t.hw.adcBusy = none ∧ t.cpu.gie = false ∧
    t.cpu.inIsr = false ∧ t.lineOut = [] ∧ t.fg = .idle ∧ t.issue = s.issue ∧ t.env = s.env ∧
    t.past = { line := s.past.line ++ s.lineOut, boots := s.past.boots + s.bootRequest,
               conditions := s.past.conditions }) ∧
  (∀ (s : State) (rest : List Byte), s.issue = 0xEF :: rest → s.cpu.handler = none → chooseIrq s = none →
    step s = exec .envReset { s with issue := rest }) ∧
  (∀ (s : State) (before after : List Move) (gs : List (List Move)), s.env = (before ++ .reset :: after) :: gs →
    (s.cpu.handler ≠ none ∨ chooseIrq s ≠ none) →
    ∃ u, exec .envReset (applyMoves before { s with env := gs }) = .next u ∧ step s = .next (applyMoves after u)) ∧
  (∀ (n : Nat) (s u : State) (before after : List Move) (gs : List (List Move)), fgStep s = .next u → u.fg ≠ .idle →
    u.env = (before ++ .reset :: after) :: gs →
    ∃ v, exec .envReset (applyMoves before { u with env := gs }) = .next v ∧
      runFg (n + 1) s = .next (applyMoves after v))

/-! ### Interrupts and contexts -/

/-- R271: the order in which two requests are served changes no final state. -/
def Obligations.HandlersCommute : Prop :=
  ∀ (h k : Handler) (s : State), runHandler h (runHandler k s) = runHandler k (runHandler h s)

/-- R268, R270: prompt service with interrupts on leaves no request true, and interrupts on. R269: with interrupts off
no gap without a reset changes what only handlers write (the tally, the rings, the loss counter, the line, the DRE
enable), and a true request stays true. -/
def Obligations.InterruptService : Prop :=
  (∀ s : State, s.cpu.gie = true → s.cpu.handler = none →
    (serveAll s).requests = [] ∧ (serveAll s).cpu = { gie := true, handler := none } ∧ (serveAll s).fg = s.fg) ∧
  (∀ (g : List Move) (s : State), s.cpu.gie = false → Move.reset ∉ g →
    (gap g s).clk = s.clk ∧ (gap g s).sp = s.sp ∧ (gap g s).lineOut = s.lineOut ∧ (gap g s).cpu = s.cpu ∧
    (gap g s).hw.dreIe = s.hw.dreIe ∧ (∀ h, s.request h = true → (gap g s).request h = true))

/-- R281: every operation of the foreground alone is refused while a handler runs, and every handler body outside its
handler. -/
def Obligations.WrongContext : Prop :=
  ∀ (i : Instr) (s : State),
    (foregroundOnly i = true → s.cpu.handler ≠ none → exec i s = .refused .wrongContext) ∧
    (∀ h, handlerOf i = some h → s.cpu.handler ≠ some h → exec i s = .refused .wrongContext)

/-! ### Rules about every operation -/

/-- R20, R29 to R33, R231, R244: under any schedule without a reset, an operation that is not one of a component's own
leaves that component's state alone: framer, deadlines, stopwatches, scanner, blink signaller. -/
def Obligations.Owners : Prop :=
  ∀ (i : Instr) (s t : State), NoReset s.env → exec i s = .next t →
    (writesFramer i = false → t.cf = s.cf) ∧ (writesDeadlines i = false → t.dl = s.dl) ∧
    (writesStopwatches i = false → t.sw = s.sw) ∧ (writesScanner i = false → t.adc = s.adc) ∧
    (writesBlinker i = false → t.bl = s.bl)

/-- R6, R49, R261, R300: every step keeps the parameters, and only appends to what the line has carried and to the
conditions that have occurred. -/
def Obligations.HistoriesGrow : Prop :=
  ∀ s t : State, step s = .next t →
    t.cfg = s.cfg ∧ (s.past.line ++ s.lineOut <+: t.past.line ++ t.lineOut) ∧
    s.past.conditions <+: t.past.conditions ∧ s.past.boots + s.bootRequest ≤ t.past.boots + t.bootRequest
end

