-- ==== Sys2Proof/Laws/Invariant.lean ====
section
/-! SUPPORT. A Bool check that implies the invariant, so that a concrete state is shown to meet it by evaluation. -/

namespace Sys2Proof.Machine

/-- The ring invariant as a check. -/
def ringCheck (n : Nat) (R : Ring) : Bool :=
  R.buf.length == n && decide (R.count ≤ n) && (n == 0 || decide (R.head < n)) &&
    (n == 0 || R.tail == (R.head + R.count) % n)

theorem RingOk.of_check {n : Nat} {R : Ring} (h : ringCheck n R = true) : RingOk n R := by
  simp only [ringCheck, Bool.and_eq_true, beq_iff_eq, decide_eq_true_eq, Bool.or_eq_true] at h
  obtain ⟨⟨⟨a, b⟩, c⟩, d⟩ := h
  exact ⟨a, b, fun hn => c.resolve_left hn, fun hn => d.resolve_left hn⟩

/-- A width check. -/
def fits (w v : Nat) : Bool := decide (v < 2 ^ w)

theorem fits_iff (w v : Nat) : fits w v = true ↔ FitsWidth w v := by simp [fits, FitsWidth]

/-- The invariant as a check, for a state whose foreground stands between operations or inside one that reads no clock
and is no `PUMP`. -/
def invCheck (s : State) : Bool :=
  s.cfg.valid && ringCheck s.cfg.nRx s.sp.rx && ringCheck s.cfg.nTx s.sp.tx && fits s.cfg.wLoss s.sp.loss &&
  decide (0 < s.sp.baud) &&
  decide (s.sp.progress < s.cfg.bootSeq.length) && fits s.cfg.wOvf s.clk.tally && fits s.cfg.wCnt s.hw.cnt &&
  (s.dl.length == s.cfg.nDl) && s.dl.all (fun D => fits s.cfg.wTime D.base && fits s.cfg.wTime D.duration) &&
  (s.sw.length == s.cfg.nSw) && s.sw.all (fun W => fits s.cfg.wTime W.base) &&
  fits s.cfg.wTime s.cf.deadline.base && (s.cf.deadline.duration == s.cfg.payloadTimeout) &&
  !s.cf.deadline.cancelled && decide (s.adc.cur < s.cfg.channels.length) &&
  (s.adc.latest.length == s.cfg.channels.length) && (s.adc.valid.length == s.cfg.channels.length) &&
  s.adc.latest.all (fits s.cfg.wAdc) && fits s.cfg.wAdc s.hw.adcResult &&
  (s.adc.inProgress || s.hw.adcBusy == none) && (!s.adc.inProgress || s.hw.adcBusy.isSome == !s.hw.adcReady) &&
  fits s.cfg.wCount s.bl.remaining && fits s.cfg.wTime s.bl.onDur && fits s.cfg.wTime s.bl.offDur &&
  fits s.cfg.wTime s.bl.phaseStart && (s.cpu.handler == none || !s.cpu.gie) &&
  (s.cpu.handler != some .rxc || s.hw.rxFrame != none)

/-- The check and the place of the foreground give the invariant. -/
theorem Inv.of_check {s : State} (h : invCheck s = true) (hf : FgOk s) : Inv s := by
  simp only [invCheck, Bool.and_eq_true] at h
  obtain ⟨⟨⟨⟨⟨⟨⟨⟨⟨⟨⟨⟨⟨⟨⟨⟨⟨⟨⟨⟨⟨⟨⟨⟨⟨⟨⟨h1, h2⟩, h3⟩, h4⟩, hb⟩, h5⟩, h6⟩, h7⟩, h8⟩, h9⟩, h10⟩, h11⟩, h12⟩, h13⟩, h14⟩, h15⟩, h16⟩,
    h17⟩, h18⟩, h19⟩, h20⟩, h21⟩, h22⟩, h23⟩, h24⟩, h25⟩, h26⟩, h27⟩ := h
  simp only [fits_iff, beq_iff_eq, decide_eq_true_eq, List.all_eq_true, Bool.and_eq_true, Bool.or_eq_true,
    Bool.not_eq_true', bne_iff_ne] at *
  exact
    { params := h1, rx := .of_check h2, tx := .of_check h3, loss := h4, baud := hb, progress := h5, tally := h6, counter := h7
      dl_length := h8, dl_fields := fun D hD => h9 D hD, sw_length := h10, sw_fields := h11, framer_base := h12
      framer_duration := h13, framer_armed := h14, adc_cur := h15, adc_latest := h16, adc_valid := h17
      adc_samples := h18, adc_result := h19, adc_idle := fun h => h20.resolve_left (by simp [h])
      adc_flight := fun h => h21.resolve_left (by simp [h]), blink_count := h22, blink_times := ⟨h23, h24, h25⟩
      masked := fun h => h26.resolve_left h, frame := fun h => h27.resolve_left (by simp [h]), place := hf }

end Sys2Proof.Machine
end

