-- ==== Sys2Proof/Laws/State.lean ====
section
/-! SUPPORT. One lemma per field per update of State: what each shared update writes and what it leaves alone. -/

namespace Sys2Proof.Machine

/-! ### finish -/

@[simp] theorem finish_cfg (r : Result) (s : State) : (finish r s).cfg = s.cfg := rfl
@[simp] theorem finish_sp (r : Result) (s : State) : (finish r s).sp = s.sp := rfl
@[simp] theorem finish_clk (r : Result) (s : State) : (finish r s).clk = s.clk := rfl
@[simp] theorem finish_dl (r : Result) (s : State) : (finish r s).dl = s.dl := rfl
@[simp] theorem finish_sw (r : Result) (s : State) : (finish r s).sw = s.sw := rfl
@[simp] theorem finish_cf (r : Result) (s : State) : (finish r s).cf = s.cf := rfl
@[simp] theorem finish_adc (r : Result) (s : State) : (finish r s).adc = s.adc := rfl
@[simp] theorem finish_bl (r : Result) (s : State) : (finish r s).bl = s.bl := rfl
@[simp] theorem finish_hw (r : Result) (s : State) : (finish r s).hw = s.hw := rfl
@[simp] theorem finish_cpu (r : Result) (s : State) : (finish r s).cpu = s.cpu := rfl
@[simp] theorem finish_bootRequest (r : Result) (s : State) : (finish r s).bootRequest = s.bootRequest := rfl
@[simp] theorem finish_lineOut (r : Result) (s : State) : (finish r s).lineOut = s.lineOut := rfl
@[simp] theorem finish_fg (r : Result) (s : State) : (finish r s).fg = .idle := rfl
@[simp] theorem finish_result (r : Result) (s : State) : (finish r s).result = r := rfl
@[simp] theorem finish_isrResult (r : Result) (s : State) : (finish r s).isrResult = s.isrResult := rfl
@[simp] theorem finish_issue (r : Result) (s : State) : (finish r s).issue = s.issue := rfl
@[simp] theorem finish_env (r : Result) (s : State) : (finish r s).env = s.env := rfl
@[simp] theorem finish_draws (r : Result) (s : State) : (finish r s).draws = s.draws := rfl
@[simp] theorem finish_ticks (r : Result) (s : State) : (finish r s).ticks = s.ticks := rfl
@[simp] theorem finish_past (r : Result) (s : State) : (finish r s).past = s.past := rfl

/-! ### raise -/

@[simp] theorem raise_cfg (c : Condition) (s : State) : (raise c s).cfg = s.cfg := rfl
@[simp] theorem raise_sp (c : Condition) (s : State) : (raise c s).sp = s.sp := rfl
@[simp] theorem raise_clk (c : Condition) (s : State) : (raise c s).clk = s.clk := rfl
@[simp] theorem raise_dl (c : Condition) (s : State) : (raise c s).dl = s.dl := rfl
@[simp] theorem raise_sw (c : Condition) (s : State) : (raise c s).sw = s.sw := rfl
@[simp] theorem raise_cf (c : Condition) (s : State) : (raise c s).cf = s.cf := rfl
@[simp] theorem raise_adc (c : Condition) (s : State) : (raise c s).adc = s.adc := rfl
@[simp] theorem raise_bl (c : Condition) (s : State) : (raise c s).bl = s.bl := rfl
@[simp] theorem raise_hw (c : Condition) (s : State) : (raise c s).hw = s.hw := rfl
@[simp] theorem raise_cpu (c : Condition) (s : State) : (raise c s).cpu = s.cpu := rfl
@[simp] theorem raise_bootRequest (c : Condition) (s : State) : (raise c s).bootRequest = s.bootRequest := rfl
@[simp] theorem raise_lineOut (c : Condition) (s : State) : (raise c s).lineOut = s.lineOut := rfl
@[simp] theorem raise_fg (c : Condition) (s : State) : (raise c s).fg = s.fg := rfl
@[simp] theorem raise_result (c : Condition) (s : State) : (raise c s).result = s.result := rfl
@[simp] theorem raise_isrResult (c : Condition) (s : State) : (raise c s).isrResult = s.isrResult := rfl
@[simp] theorem raise_issue (c : Condition) (s : State) : (raise c s).issue = s.issue := rfl
@[simp] theorem raise_env (c : Condition) (s : State) : (raise c s).env = s.env := rfl
@[simp] theorem raise_draws (c : Condition) (s : State) : (raise c s).draws = s.draws := rfl
@[simp] theorem raise_ticks (c : Condition) (s : State) : (raise c s).ticks = s.ticks := rfl
@[simp] theorem raise_past (c : Condition) (s : State) :
    (raise c s).past = { s.past with conditions := s.past.conditions ++ [c] } := rfl

/-! ### countLoss -/

@[simp] theorem countLoss_cfg (c : Condition) (s : State) : (countLoss c s).cfg = s.cfg := rfl
@[simp] theorem countLoss_sp (c : Condition) (s : State) :
    (countLoss c s).sp = { s.sp with loss := addMod s.cfg.wLoss s.sp.loss 1 } := rfl
@[simp] theorem countLoss_clk (c : Condition) (s : State) : (countLoss c s).clk = s.clk := rfl
@[simp] theorem countLoss_dl (c : Condition) (s : State) : (countLoss c s).dl = s.dl := rfl
@[simp] theorem countLoss_sw (c : Condition) (s : State) : (countLoss c s).sw = s.sw := rfl
@[simp] theorem countLoss_cf (c : Condition) (s : State) : (countLoss c s).cf = s.cf := rfl
@[simp] theorem countLoss_adc (c : Condition) (s : State) : (countLoss c s).adc = s.adc := rfl
@[simp] theorem countLoss_bl (c : Condition) (s : State) : (countLoss c s).bl = s.bl := rfl
@[simp] theorem countLoss_hw (c : Condition) (s : State) : (countLoss c s).hw = s.hw := rfl
@[simp] theorem countLoss_cpu (c : Condition) (s : State) : (countLoss c s).cpu = s.cpu := rfl
@[simp] theorem countLoss_bootRequest (c : Condition) (s : State) : (countLoss c s).bootRequest = s.bootRequest := rfl
@[simp] theorem countLoss_lineOut (c : Condition) (s : State) : (countLoss c s).lineOut = s.lineOut := rfl
@[simp] theorem countLoss_fg (c : Condition) (s : State) : (countLoss c s).fg = s.fg := rfl
@[simp] theorem countLoss_result (c : Condition) (s : State) : (countLoss c s).result = s.result := rfl
@[simp] theorem countLoss_isrResult (c : Condition) (s : State) : (countLoss c s).isrResult = s.isrResult := rfl
@[simp] theorem countLoss_issue (c : Condition) (s : State) : (countLoss c s).issue = s.issue := rfl
@[simp] theorem countLoss_env (c : Condition) (s : State) : (countLoss c s).env = s.env := rfl
@[simp] theorem countLoss_draws (c : Condition) (s : State) : (countLoss c s).draws = s.draws := rfl
@[simp] theorem countLoss_ticks (c : Condition) (s : State) : (countLoss c s).ticks = s.ticks := rfl
@[simp] theorem countLoss_past (c : Condition) (s : State) :
    (countLoss c s).past = { s.past with conditions := s.past.conditions ++ [c] } := rfl

/-! ### hwSend -/

@[simp] theorem hwSend_cfg (b : Byte) (s : State) : (hwSend b s).cfg = s.cfg := rfl
@[simp] theorem hwSend_sp (b : Byte) (s : State) : (hwSend b s).sp = s.sp := rfl
@[simp] theorem hwSend_clk (b : Byte) (s : State) : (hwSend b s).clk = s.clk := rfl
@[simp] theorem hwSend_dl (b : Byte) (s : State) : (hwSend b s).dl = s.dl := rfl
@[simp] theorem hwSend_sw (b : Byte) (s : State) : (hwSend b s).sw = s.sw := rfl
@[simp] theorem hwSend_cf (b : Byte) (s : State) : (hwSend b s).cf = s.cf := rfl
@[simp] theorem hwSend_adc (b : Byte) (s : State) : (hwSend b s).adc = s.adc := rfl
@[simp] theorem hwSend_bl (b : Byte) (s : State) : (hwSend b s).bl = s.bl := rfl
@[simp] theorem hwSend_hw (b : Byte) (s : State) : (hwSend b s).hw = { s.hw with txEmpty := false } := rfl
@[simp] theorem hwSend_cpu (b : Byte) (s : State) : (hwSend b s).cpu = s.cpu := rfl
@[simp] theorem hwSend_bootRequest (b : Byte) (s : State) : (hwSend b s).bootRequest = s.bootRequest := rfl
@[simp] theorem hwSend_lineOut (b : Byte) (s : State) : (hwSend b s).lineOut = s.lineOut ++ [b] := rfl
@[simp] theorem hwSend_fg (b : Byte) (s : State) : (hwSend b s).fg = s.fg := rfl
@[simp] theorem hwSend_result (b : Byte) (s : State) : (hwSend b s).result = s.result := rfl
@[simp] theorem hwSend_isrResult (b : Byte) (s : State) : (hwSend b s).isrResult = s.isrResult := rfl
@[simp] theorem hwSend_issue (b : Byte) (s : State) : (hwSend b s).issue = s.issue := rfl
@[simp] theorem hwSend_env (b : Byte) (s : State) : (hwSend b s).env = s.env := rfl
@[simp] theorem hwSend_draws (b : Byte) (s : State) : (hwSend b s).draws = s.draws := rfl
@[simp] theorem hwSend_ticks (b : Byte) (s : State) : (hwSend b s).ticks = s.ticks := rfl
@[simp] theorem hwSend_past (b : Byte) (s : State) : (hwSend b s).past = s.past := rfl

/-! ### bumpTally -/

@[simp] theorem bumpTally_cfg (s : State) : (bumpTally s).cfg = s.cfg := rfl
@[simp] theorem bumpTally_sp (s : State) : (bumpTally s).sp = s.sp := rfl
@[simp] theorem bumpTally_clk (s : State) :
    (bumpTally s).clk = { tally := addMod s.cfg.wOvf s.clk.tally 1, writes := s.clk.writes + 1 } := rfl
@[simp] theorem bumpTally_dl (s : State) : (bumpTally s).dl = s.dl := rfl
@[simp] theorem bumpTally_sw (s : State) : (bumpTally s).sw = s.sw := rfl
@[simp] theorem bumpTally_cf (s : State) : (bumpTally s).cf = s.cf := rfl
@[simp] theorem bumpTally_adc (s : State) : (bumpTally s).adc = s.adc := rfl
@[simp] theorem bumpTally_bl (s : State) : (bumpTally s).bl = s.bl := rfl
@[simp] theorem bumpTally_hw (s : State) : (bumpTally s).hw = s.hw := rfl
@[simp] theorem bumpTally_cpu (s : State) : (bumpTally s).cpu = s.cpu := rfl
@[simp] theorem bumpTally_bootRequest (s : State) : (bumpTally s).bootRequest = s.bootRequest := rfl
@[simp] theorem bumpTally_lineOut (s : State) : (bumpTally s).lineOut = s.lineOut := rfl
@[simp] theorem bumpTally_fg (s : State) : (bumpTally s).fg = s.fg := rfl
@[simp] theorem bumpTally_result (s : State) : (bumpTally s).result = s.result := rfl
@[simp] theorem bumpTally_isrResult (s : State) : (bumpTally s).isrResult = s.isrResult := rfl
@[simp] theorem bumpTally_issue (s : State) : (bumpTally s).issue = s.issue := rfl
@[simp] theorem bumpTally_env (s : State) : (bumpTally s).env = s.env := rfl
@[simp] theorem bumpTally_draws (s : State) : (bumpTally s).draws = s.draws := rfl
@[simp] theorem bumpTally_ticks (s : State) : (bumpTally s).ticks = s.ticks := rfl
@[simp] theorem bumpTally_past (s : State) : (bumpTally s).past = s.past := rfl

/-! ### counterTick -/

@[simp] theorem counterTick_cfg (s : State) : (counterTick s).cfg = s.cfg := rfl
@[simp] theorem counterTick_sp (s : State) : (counterTick s).sp = s.sp := rfl
@[simp] theorem counterTick_clk (s : State) : (counterTick s).clk = s.clk := rfl
@[simp] theorem counterTick_dl (s : State) : (counterTick s).dl = s.dl := rfl
@[simp] theorem counterTick_sw (s : State) : (counterTick s).sw = s.sw := rfl
@[simp] theorem counterTick_cf (s : State) : (counterTick s).cf = s.cf := rfl
@[simp] theorem counterTick_adc (s : State) : (counterTick s).adc = s.adc := rfl
@[simp] theorem counterTick_bl (s : State) : (counterTick s).bl = s.bl := rfl
@[simp] theorem counterTick_hw (s : State) :
    (counterTick s).hw = { s.hw with cnt := addMod s.cfg.wCnt s.hw.cnt 1, tovPending := s.hw.tovPending || addMod s.cfg.wCnt s.hw.cnt 1 == 0 } := rfl
@[simp] theorem counterTick_cpu (s : State) : (counterTick s).cpu = s.cpu := rfl
@[simp] theorem counterTick_bootRequest (s : State) : (counterTick s).bootRequest = s.bootRequest := rfl
@[simp] theorem counterTick_lineOut (s : State) : (counterTick s).lineOut = s.lineOut := rfl
@[simp] theorem counterTick_fg (s : State) : (counterTick s).fg = s.fg := rfl
@[simp] theorem counterTick_result (s : State) : (counterTick s).result = s.result := rfl
@[simp] theorem counterTick_isrResult (s : State) : (counterTick s).isrResult = s.isrResult := rfl
@[simp] theorem counterTick_issue (s : State) : (counterTick s).issue = s.issue := rfl
@[simp] theorem counterTick_env (s : State) : (counterTick s).env = s.env := rfl
@[simp] theorem counterTick_draws (s : State) : (counterTick s).draws = s.draws := rfl
@[simp] theorem counterTick_ticks (s : State) : (counterTick s).ticks = s.ticks + 1 := rfl
@[simp] theorem counterTick_past (s : State) : (counterTick s).past = s.past := rfl

/-! ### beginConversion -/

@[simp] theorem beginConversion_cfg (ch : Nat) (s : State) : (beginConversion ch s).cfg = s.cfg := rfl
@[simp] theorem beginConversion_sp (ch : Nat) (s : State) : (beginConversion ch s).sp = s.sp := rfl
@[simp] theorem beginConversion_clk (ch : Nat) (s : State) : (beginConversion ch s).clk = s.clk := rfl
@[simp] theorem beginConversion_dl (ch : Nat) (s : State) : (beginConversion ch s).dl = s.dl := rfl
@[simp] theorem beginConversion_sw (ch : Nat) (s : State) : (beginConversion ch s).sw = s.sw := rfl
@[simp] theorem beginConversion_cf (ch : Nat) (s : State) : (beginConversion ch s).cf = s.cf := rfl
@[simp] theorem beginConversion_adc (ch : Nat) (s : State) :
    (beginConversion ch s).adc = { s.adc with inProgress := true } := rfl
@[simp] theorem beginConversion_bl (ch : Nat) (s : State) : (beginConversion ch s).bl = s.bl := rfl
@[simp] theorem beginConversion_hw (ch : Nat) (s : State) :
    (beginConversion ch s).hw = { s.hw with adcReady := false, adcBusy := some ch } := rfl
@[simp] theorem beginConversion_cpu (ch : Nat) (s : State) : (beginConversion ch s).cpu = s.cpu := rfl
@[simp] theorem beginConversion_bootRequest (ch : Nat) (s : State) :
    (beginConversion ch s).bootRequest = s.bootRequest := rfl
@[simp] theorem beginConversion_lineOut (ch : Nat) (s : State) : (beginConversion ch s).lineOut = s.lineOut := rfl
@[simp] theorem beginConversion_fg (ch : Nat) (s : State) : (beginConversion ch s).fg = s.fg := rfl
@[simp] theorem beginConversion_result (ch : Nat) (s : State) : (beginConversion ch s).result = s.result := rfl
@[simp] theorem beginConversion_isrResult (ch : Nat) (s : State) :
    (beginConversion ch s).isrResult = s.isrResult := rfl
@[simp] theorem beginConversion_issue (ch : Nat) (s : State) : (beginConversion ch s).issue = s.issue := rfl
@[simp] theorem beginConversion_env (ch : Nat) (s : State) : (beginConversion ch s).env = s.env := rfl
@[simp] theorem beginConversion_draws (ch : Nat) (s : State) : (beginConversion ch s).draws = s.draws := rfl
@[simp] theorem beginConversion_ticks (ch : Nat) (s : State) : (beginConversion ch s).ticks = s.ticks := rfl
@[simp] theorem beginConversion_past (ch : Nat) (s : State) : (beginConversion ch s).past = s.past := rfl

/-! ### storeSample -/

@[simp] theorem storeSample_cfg (s : State) : (storeSample s).cfg = s.cfg := rfl
@[simp] theorem storeSample_sp (s : State) : (storeSample s).sp = s.sp := rfl
@[simp] theorem storeSample_clk (s : State) : (storeSample s).clk = s.clk := rfl
@[simp] theorem storeSample_dl (s : State) : (storeSample s).dl = s.dl := rfl
@[simp] theorem storeSample_sw (s : State) : (storeSample s).sw = s.sw := rfl
@[simp] theorem storeSample_cf (s : State) : (storeSample s).cf = s.cf := rfl
@[simp] theorem storeSample_adc (s : State) :
    (storeSample s).adc = { s.adc with latest := s.adc.latest.set s.adc.cur s.hw.adcResult, valid := s.adc.valid.set s.adc.cur true, inProgress := false } := rfl
@[simp] theorem storeSample_bl (s : State) : (storeSample s).bl = s.bl := rfl
@[simp] theorem storeSample_hw (s : State) : (storeSample s).hw = s.hw := rfl
@[simp] theorem storeSample_cpu (s : State) : (storeSample s).cpu = s.cpu := rfl
@[simp] theorem storeSample_bootRequest (s : State) : (storeSample s).bootRequest = s.bootRequest := rfl
@[simp] theorem storeSample_lineOut (s : State) : (storeSample s).lineOut = s.lineOut := rfl
@[simp] theorem storeSample_fg (s : State) : (storeSample s).fg = s.fg := rfl
@[simp] theorem storeSample_result (s : State) : (storeSample s).result = s.result := rfl
@[simp] theorem storeSample_isrResult (s : State) : (storeSample s).isrResult = s.isrResult := rfl
@[simp] theorem storeSample_issue (s : State) : (storeSample s).issue = s.issue := rfl
@[simp] theorem storeSample_env (s : State) : (storeSample s).env = s.env := rfl
@[simp] theorem storeSample_draws (s : State) : (storeSample s).draws = s.draws := rfl
@[simp] theorem storeSample_ticks (s : State) : (storeSample s).ticks = s.ticks := rfl
@[simp] theorem storeSample_past (s : State) : (storeSample s).past = s.past := rfl

/-! ### takeIrq -/

@[simp] theorem takeIrq_cfg (h : Handler) (s : State) : (takeIrq h s).cfg = s.cfg := rfl
@[simp] theorem takeIrq_sp (h : Handler) (s : State) : (takeIrq h s).sp = s.sp := rfl
@[simp] theorem takeIrq_clk (h : Handler) (s : State) : (takeIrq h s).clk = s.clk := rfl
@[simp] theorem takeIrq_dl (h : Handler) (s : State) : (takeIrq h s).dl = s.dl := rfl
@[simp] theorem takeIrq_sw (h : Handler) (s : State) : (takeIrq h s).sw = s.sw := rfl
@[simp] theorem takeIrq_cf (h : Handler) (s : State) : (takeIrq h s).cf = s.cf := rfl
@[simp] theorem takeIrq_adc (h : Handler) (s : State) : (takeIrq h s).adc = s.adc := rfl
@[simp] theorem takeIrq_bl (h : Handler) (s : State) : (takeIrq h s).bl = s.bl := rfl
@[simp] theorem takeIrq_hw (h : Handler) (s : State) :
    (takeIrq h s).hw = { s.hw with tovPending := s.hw.tovPending && h != .tov } := rfl
@[simp] theorem takeIrq_cpu (h : Handler) (s : State) : (takeIrq h s).cpu = { gie := false, handler := some h } := rfl
@[simp] theorem takeIrq_bootRequest (h : Handler) (s : State) : (takeIrq h s).bootRequest = s.bootRequest := rfl
@[simp] theorem takeIrq_lineOut (h : Handler) (s : State) : (takeIrq h s).lineOut = s.lineOut := rfl
@[simp] theorem takeIrq_fg (h : Handler) (s : State) : (takeIrq h s).fg = s.fg := rfl
@[simp] theorem takeIrq_result (h : Handler) (s : State) : (takeIrq h s).result = s.result := rfl
@[simp] theorem takeIrq_isrResult (h : Handler) (s : State) : (takeIrq h s).isrResult = s.isrResult := rfl
@[simp] theorem takeIrq_issue (h : Handler) (s : State) : (takeIrq h s).issue = s.issue := rfl
@[simp] theorem takeIrq_env (h : Handler) (s : State) : (takeIrq h s).env = s.env := rfl
@[simp] theorem takeIrq_draws (h : Handler) (s : State) : (takeIrq h s).draws = s.draws + 1 := rfl
@[simp] theorem takeIrq_ticks (h : Handler) (s : State) : (takeIrq h s).ticks = s.ticks := rfl
@[simp] theorem takeIrq_past (h : Handler) (s : State) : (takeIrq h s).past = s.past := rfl

/-! ### returnIrq -/

@[simp] theorem returnIrq_cfg (s : State) : (returnIrq s).cfg = s.cfg := rfl
@[simp] theorem returnIrq_sp (s : State) : (returnIrq s).sp = s.sp := rfl
@[simp] theorem returnIrq_clk (s : State) : (returnIrq s).clk = s.clk := rfl
@[simp] theorem returnIrq_dl (s : State) : (returnIrq s).dl = s.dl := rfl
@[simp] theorem returnIrq_sw (s : State) : (returnIrq s).sw = s.sw := rfl
@[simp] theorem returnIrq_cf (s : State) : (returnIrq s).cf = s.cf := rfl
@[simp] theorem returnIrq_adc (s : State) : (returnIrq s).adc = s.adc := rfl
@[simp] theorem returnIrq_bl (s : State) : (returnIrq s).bl = s.bl := rfl
@[simp] theorem returnIrq_hw (s : State) : (returnIrq s).hw = s.hw := rfl
@[simp] theorem returnIrq_cpu (s : State) : (returnIrq s).cpu = { gie := true, handler := none } := rfl
@[simp] theorem returnIrq_bootRequest (s : State) : (returnIrq s).bootRequest = s.bootRequest := rfl
@[simp] theorem returnIrq_lineOut (s : State) : (returnIrq s).lineOut = s.lineOut := rfl
@[simp] theorem returnIrq_fg (s : State) : (returnIrq s).fg = s.fg := rfl
@[simp] theorem returnIrq_result (s : State) : (returnIrq s).result = s.result := rfl
@[simp] theorem returnIrq_isrResult (s : State) : (returnIrq s).isrResult = s.isrResult := rfl
@[simp] theorem returnIrq_issue (s : State) : (returnIrq s).issue = s.issue := rfl
@[simp] theorem returnIrq_env (s : State) : (returnIrq s).env = s.env := rfl
@[simp] theorem returnIrq_draws (s : State) : (returnIrq s).draws = s.draws := rfl
@[simp] theorem returnIrq_ticks (s : State) : (returnIrq s).ticks = s.ticks := rfl
@[simp] theorem returnIrq_past (s : State) : (returnIrq s).past = s.past := rfl

/-! ### sampleFirst -/

@[simp] theorem sampleFirst_cfg (k : AfterNow) (s : State) : (sampleFirst k s).cfg = s.cfg := rfl
@[simp] theorem sampleFirst_sp (k : AfterNow) (s : State) : (sampleFirst k s).sp = s.sp := rfl
@[simp] theorem sampleFirst_clk (k : AfterNow) (s : State) : (sampleFirst k s).clk = s.clk := rfl
@[simp] theorem sampleFirst_dl (k : AfterNow) (s : State) : (sampleFirst k s).dl = s.dl := rfl
@[simp] theorem sampleFirst_sw (k : AfterNow) (s : State) : (sampleFirst k s).sw = s.sw := rfl
@[simp] theorem sampleFirst_cf (k : AfterNow) (s : State) : (sampleFirst k s).cf = s.cf := rfl
@[simp] theorem sampleFirst_adc (k : AfterNow) (s : State) : (sampleFirst k s).adc = s.adc := rfl
@[simp] theorem sampleFirst_bl (k : AfterNow) (s : State) : (sampleFirst k s).bl = s.bl := rfl
@[simp] theorem sampleFirst_hw (k : AfterNow) (s : State) : (sampleFirst k s).hw = s.hw := rfl
@[simp] theorem sampleFirst_cpu (k : AfterNow) (s : State) : (sampleFirst k s).cpu = s.cpu := rfl
@[simp] theorem sampleFirst_bootRequest (k : AfterNow) (s : State) :
    (sampleFirst k s).bootRequest = s.bootRequest := rfl
@[simp] theorem sampleFirst_lineOut (k : AfterNow) (s : State) : (sampleFirst k s).lineOut = s.lineOut := rfl
@[simp] theorem sampleFirst_fg (k : AfterNow) (s : State) : (sampleFirst k s).fg = .now (.n2 s.hw.cnt) k := rfl
@[simp] theorem sampleFirst_result (k : AfterNow) (s : State) : (sampleFirst k s).result = s.result := rfl
@[simp] theorem sampleFirst_isrResult (k : AfterNow) (s : State) : (sampleFirst k s).isrResult = s.isrResult := rfl
@[simp] theorem sampleFirst_issue (k : AfterNow) (s : State) : (sampleFirst k s).issue = s.issue := rfl
@[simp] theorem sampleFirst_env (k : AfterNow) (s : State) : (sampleFirst k s).env = s.env := rfl
@[simp] theorem sampleFirst_draws (k : AfterNow) (s : State) : (sampleFirst k s).draws = s.draws := rfl
@[simp] theorem sampleFirst_ticks (k : AfterNow) (s : State) : (sampleFirst k s).ticks = s.ticks := rfl
@[simp] theorem sampleFirst_past (k : AfterNow) (s : State) : (sampleFirst k s).past = s.past := rfl

/-! ### armFramer -/

@[simp] theorem armFramer_cfg (t : Nat) (s : State) : (armFramer t s).cfg = s.cfg := rfl
@[simp] theorem armFramer_sp (t : Nat) (s : State) : (armFramer t s).sp = s.sp := rfl
@[simp] theorem armFramer_clk (t : Nat) (s : State) : (armFramer t s).clk = s.clk := rfl
@[simp] theorem armFramer_dl (t : Nat) (s : State) : (armFramer t s).dl = s.dl := rfl
@[simp] theorem armFramer_sw (t : Nat) (s : State) : (armFramer t s).sw = s.sw := rfl
@[simp] theorem armFramer_cf (t : Nat) (s : State) :
    (armFramer t s).cf = { s.cf with st := .awaitingPayload, deadline := { s.cf.deadline with base := t, cancelled := false, made := true } } := rfl
@[simp] theorem armFramer_adc (t : Nat) (s : State) : (armFramer t s).adc = s.adc := rfl
@[simp] theorem armFramer_bl (t : Nat) (s : State) : (armFramer t s).bl = s.bl := rfl
@[simp] theorem armFramer_hw (t : Nat) (s : State) : (armFramer t s).hw = s.hw := rfl
@[simp] theorem armFramer_cpu (t : Nat) (s : State) : (armFramer t s).cpu = s.cpu := rfl
@[simp] theorem armFramer_bootRequest (t : Nat) (s : State) : (armFramer t s).bootRequest = s.bootRequest := rfl
@[simp] theorem armFramer_lineOut (t : Nat) (s : State) : (armFramer t s).lineOut = s.lineOut := rfl
@[simp] theorem armFramer_fg (t : Nat) (s : State) : (armFramer t s).fg = s.fg := rfl
@[simp] theorem armFramer_result (t : Nat) (s : State) : (armFramer t s).result = s.result := rfl
@[simp] theorem armFramer_isrResult (t : Nat) (s : State) : (armFramer t s).isrResult = s.isrResult := rfl
@[simp] theorem armFramer_issue (t : Nat) (s : State) : (armFramer t s).issue = s.issue := rfl
@[simp] theorem armFramer_env (t : Nat) (s : State) : (armFramer t s).env = s.env := rfl
@[simp] theorem armFramer_draws (t : Nat) (s : State) : (armFramer t s).draws = s.draws := rfl
@[simp] theorem armFramer_ticks (t : Nat) (s : State) : (armFramer t s).ticks = s.ticks := rfl
@[simp] theorem armFramer_past (t : Nat) (s : State) : (armFramer t s).past = s.past := rfl

/-! ### armBlink -/

@[simp] theorem armBlink_cfg (count on off : Nat) (s : State) : (armBlink count on off s).cfg = s.cfg := rfl
@[simp] theorem armBlink_sp (count on off : Nat) (s : State) : (armBlink count on off s).sp = s.sp := rfl
@[simp] theorem armBlink_clk (count on off : Nat) (s : State) : (armBlink count on off s).clk = s.clk := rfl
@[simp] theorem armBlink_dl (count on off : Nat) (s : State) : (armBlink count on off s).dl = s.dl := rfl
@[simp] theorem armBlink_sw (count on off : Nat) (s : State) : (armBlink count on off s).sw = s.sw := rfl
@[simp] theorem armBlink_cf (count on off : Nat) (s : State) : (armBlink count on off s).cf = s.cf := rfl
@[simp] theorem armBlink_adc (count on off : Nat) (s : State) : (armBlink count on off s).adc = s.adc := rfl
@[simp] theorem armBlink_bl (count on off : Nat) (s : State) :
    (armBlink count on off s).bl = { s.bl with remaining := count, onDur := on, offDur := off, active := true, out := .high } := rfl
@[simp] theorem armBlink_hw (count on off : Nat) (s : State) : (armBlink count on off s).hw = s.hw := rfl
@[simp] theorem armBlink_cpu (count on off : Nat) (s : State) : (armBlink count on off s).cpu = s.cpu := rfl
@[simp] theorem armBlink_bootRequest (count on off : Nat) (s : State) :
    (armBlink count on off s).bootRequest = s.bootRequest := rfl
@[simp] theorem armBlink_lineOut (count on off : Nat) (s : State) :
    (armBlink count on off s).lineOut = s.lineOut := rfl
@[simp] theorem armBlink_fg (count on off : Nat) (s : State) : (armBlink count on off s).fg = s.fg := rfl
@[simp] theorem armBlink_result (count on off : Nat) (s : State) : (armBlink count on off s).result = s.result := rfl
@[simp] theorem armBlink_isrResult (count on off : Nat) (s : State) :
    (armBlink count on off s).isrResult = s.isrResult := rfl
@[simp] theorem armBlink_issue (count on off : Nat) (s : State) : (armBlink count on off s).issue = s.issue := rfl
@[simp] theorem armBlink_env (count on off : Nat) (s : State) : (armBlink count on off s).env = s.env := rfl
@[simp] theorem armBlink_draws (count on off : Nat) (s : State) : (armBlink count on off s).draws = s.draws := rfl
@[simp] theorem armBlink_ticks (count on off : Nat) (s : State) : (armBlink count on off s).ticks = s.ticks := rfl
@[simp] theorem armBlink_past (count on off : Nat) (s : State) : (armBlink count on off s).past = s.past := rfl

/-! ### hardwareReset -/

@[simp] theorem hardwareReset_cfg (s : State) : (hardwareReset s).cfg = s.cfg := rfl
@[simp] theorem hardwareReset_clk (s : State) : (hardwareReset s).clk = { tally := 0, writes := 0 } := rfl
@[simp] theorem hardwareReset_cpu (s : State) : (hardwareReset s).cpu = { gie := false, handler := none } := rfl
@[simp] theorem hardwareReset_bootRequest (s : State) : (hardwareReset s).bootRequest = 0 := rfl
@[simp] theorem hardwareReset_lineOut (s : State) : (hardwareReset s).lineOut = [] := rfl
@[simp] theorem hardwareReset_fg (s : State) : (hardwareReset s).fg = .idle := rfl
@[simp] theorem hardwareReset_result (s : State) : (hardwareReset s).result = .none := rfl
@[simp] theorem hardwareReset_isrResult (s : State) : (hardwareReset s).isrResult = .none := rfl
@[simp] theorem hardwareReset_issue (s : State) : (hardwareReset s).issue = s.issue := rfl
@[simp] theorem hardwareReset_env (s : State) : (hardwareReset s).env = s.env := rfl
@[simp] theorem hardwareReset_draws (s : State) : (hardwareReset s).draws = s.draws + 1 := rfl
@[simp] theorem hardwareReset_ticks (s : State) : (hardwareReset s).ticks = 0 := rfl
@[simp] theorem hardwareReset_bl (s : State) : (hardwareReset s).bl = freeBlinker s.cfg s.draws := rfl
@[simp] theorem hardwareReset_past (s : State) : (hardwareReset s).past =
    { line := s.past.line ++ s.lineOut, boots := s.past.boots + s.bootRequest, conditions := s.past.conditions } := rfl

end Sys2Proof.Machine
end

