-- ==== Sys2Proof/Laws/Ops.lean ====
section
/-! SUPPORT. For each shared operation, one lemma that says everything it can do. Later proofs cite these and do not
unfold the operation. -/

namespace Sys2Proof.Machine

/-! ### Rings -/

/-- R121 in two cases. -/
theorem ringPush_cases (n : Nat) (v : Byte) (R : Ring) :
    (R.count = n ∧ ringPush n v R = (R, false)) ∨
    (R.count ≠ n ∧ ringPush n v R =
      ({ R with buf := R.buf.set R.tail v, tail := (R.tail + 1) % n, count := R.count + 1 }, true)) := by
  by_cases h : R.count = n <;> simp [ringPush, Ring.isFull, h]

/-- R122 in two cases. -/
theorem ringPop_cases (n : Nat) (R : Ring) :
    (R.count = 0 ∧ ringPop n R = none) ∨
    (R.count ≠ 0 ∧ ringPop n R =
      some (R.front, { R with head := (R.head + 1) % n, count := R.count - 1 })) := by
  by_cases h : R.count = 0 <;> simp [ringPop, Ring.isEmpty, h]

/-- R123 in two cases. -/
theorem ringTop_cases (R : Ring) :
    (R.count = 0 ∧ ringTop R = none) ∨ (R.count ≠ 0 ∧ ringTop R = some R.front) := by
  by_cases h : R.count = 0 <;> simp [ringTop, Ring.isEmpty, h]

/-! ### Serial port -/

/-- R166: the filter writes its progress and may count one boot request. -/
theorem filterByte_cases (b : Byte) (s : State) :
    ∃ p, (p = s.sp.progress + 1 ∧ s.cfg.bootSeq[s.sp.progress]? = some b ∨
          p = progressAfterMismatch s.cfg b ∧ s.cfg.bootSeq[s.sp.progress]? ≠ some b) ∧
      ((p = s.cfg.bootSeq.length ∧
          filterByte b s = { s with sp := { s.sp with progress := 0 }, bootRequest := s.bootRequest + 1 }) ∨
        (p ≠ s.cfg.bootSeq.length ∧ filterByte b s = { s with sp := { s.sp with progress := p } })) := by
  by_cases h : s.cfg.bootSeq[s.sp.progress]? = some b
  · refine ⟨s.sp.progress + 1, .inl ⟨rfl, h⟩, ?_⟩
    by_cases hp : s.sp.progress + 1 = s.cfg.bootSeq.length <;> simp [filterByte, h, hp]
  · refine ⟨progressAfterMismatch s.cfg b, .inr ⟨rfl, h⟩, ?_⟩
    by_cases hp : progressAfterMismatch s.cfg b = s.cfg.bootSeq.length <;> simp [filterByte, h, hp]

/-- R186 in two cases: nothing, or one byte popped and sent. -/
theorem drainOne_cases (s : State) :
    (drainOne s = s ∧ (s.hw.txEmpty = false ∨ s.sp.tx.count = 0)) ∨
    (s.hw.txEmpty = true ∧ s.sp.tx.count ≠ 0 ∧ drainOne s = hwSend s.sp.tx.front
      { s with sp := { s.sp with tx := { s.sp.tx with head := (s.sp.tx.head + 1) % s.cfg.nTx,
                                                      count := s.sp.tx.count - 1 } } }) := by
  cases ht : s.hw.txEmpty
  · simp [drainOne, ht]
  · obtain ⟨h, e⟩ | ⟨h, e⟩ := ringPop_cases s.cfg.nTx s.sp.tx <;> simp [drainOne, ht, h, e]

/-- I5 to I7 of R185 in two cases. -/
theorem bufferByte_cases (b : Byte) (s : State) :
    ((filterByte b s).sp.rx.count = (filterByte b s).cfg.nRx ∧
      bufferByte b s = countLoss .rxBufferFull (filterByte b s)) ∨
    ((filterByte b s).sp.rx.count ≠ (filterByte b s).cfg.nRx ∧
      bufferByte b s = { filterByte b s with sp := { (filterByte b s).sp with
        rx := (ringPush (filterByte b s).cfg.nRx b (filterByte b s).sp.rx).1 } }) := by
  obtain ⟨h, e⟩ | ⟨h, e⟩ := ringPush_cases (filterByte b s).cfg.nRx b (filterByte b s).sp.rx <;>
    simp [bufferByte, h, e]

/-- R184 in two cases. -/
theorem processRx_cases (s : State) :
    (s.hw.rxFrame = none ∧ processRx s = s) ∨ (∃ f, s.hw.rxFrame = some f ∧ processRx s = intrRx f s) := by
  cases h : s.hw.rxFrame <;> simp [processRx, h]

/-- R187 in two cases. -/
theorem intrTx_cases (s : State) :
    ((drainOne s).sp.tx.count = 0 ∧
      intrTx s = { drainOne s with hw := { (drainOne s).hw with dreIe := false } }) ∨
    ((drainOne s).sp.tx.count ≠ 0 ∧ intrTx s = drainOne s) := by
  by_cases h : (drainOne s).sp.tx.count = 0 <;> simp [intrTx, Ring.isEmpty, h]

/-! ### Analog-to-digital scanner -/

/-- R212 in two cases. -/
theorem adcPoll_cases (s : State) :
    (s.sampleReady = true ∧ adcPoll s = (storeSample s, true)) ∨ (s.sampleReady = false ∧ adcPoll s = (s, false)) := by
  cases h : s.sampleReady <;> simp [adcPoll, h]

/-- R211: a start that answers a next state. -/
theorem startConversion_next {s t : State} (h : startConversion s = .next t) :
    s.adc.inProgress = false ∧ ∃ c, s.cfg.channels[s.adc.cur]? = some c ∧ t = beginConversion c.ch s := by
  unfold startConversion at h
  cases hp : s.adc.inProgress <;> simp only [hp, if_true, if_false, Bool.false_eq_true] at h
  · cases hc : s.cfg.channels[s.adc.cur]? with
    | none => simp [hc] at h
    | some c => simp only [hc, Host.Outcome.next.injEq] at h; exact ⟨rfl, c, rfl, h.symm⟩
  · cases h

/-- R214: an advance that answers a next state. -/
theorem startNextConversion_next {s t : State} (h : startNextConversion s = .next t) :
    s.adc.inProgress = false ∧ ∃ c, s.cfg.channels[(s.adc.cur + 1) % s.cfg.channels.length]? = some c ∧
      t = beginConversion c.ch
        { s with adc := { s.adc with cur := (s.adc.cur + 1) % s.cfg.channels.length } } := by
  unfold startNextConversion at h
  cases hp : s.adc.inProgress <;> simp only [hp, if_true, if_false, Bool.false_eq_true] at h
  · obtain ⟨-, c, hc, e⟩ := startConversion_next h
    exact ⟨rfl, c, hc, e⟩
  · cases h

/-! ### Blink signaller -/

/-- R242 in three cases. -/
theorem blinkAt_cases (t : Nat) (s : State) :
    blinkAt t s = s ∨
    (s.bl.active = true ∧ blinkAt t s =
      { s with bl := { s.bl with out := .low, active := false, phaseStart := t, remaining := s.bl.remaining - 1 } }) ∨
    (s.bl.active = false ∧ blinkAt t s = { s with bl := { s.bl with out := .high, active := true, phaseStart := t } }) := by
  unfold blinkAt
  cases s.bl.active <;> simp only [if_true, if_false, Bool.false_eq_true] <;> split <;> simp

/-! ### Interrupts -/

/-- R53: what the set of requests holds. -/
theorem mem_requests (s : State) (h : Handler) : h ∈ s.requests ↔ s.request h = true := by
  cases h <;> simp [State.requests, List.mem_filter]

/-- R267: an interrupt is taken only when it may be and its request is true. -/
theorem chooseIrq_some {s : State} {h : Handler} (e : chooseIrq s = some h) :
    s.cpu.gie = true ∧ s.cpu.handler = none ∧ s.request h = true := by
  unfold chooseIrq at e
  cases hm : s.mayTake <;> simp only [hm, if_true, if_false, Bool.false_eq_true] at e
  · cases e
  · have hreq : h ∈ s.requests := by
      split at e
      · cases e
      · next heq => cases e; simp [heq]
      · exact List.mem_of_getElem? e
    simp only [State.mayTake, Cpu.inIsr, Bool.and_eq_true, Bool.not_eq_true', Option.isSome_eq_false_iff,
      Option.isNone_iff_eq_none] at hm
    exact ⟨hm.1, hm.2, (mem_requests s h).1 hreq⟩

/-- R267, R268: none is taken only where none may be, or no request is true. -/
theorem chooseIrq_none (s : State) : chooseIrq s = none ↔ s.mayTake = false ∨ s.requests = [] := by
  unfold chooseIrq
  cases hm : s.mayTake
  · simp
  · simp only [if_true, Bool.true_eq_false, false_or]
    split
    · next h => simp [h]
    · next h => simp [h]
    · next hs h1 h2 =>
      have hne : s.requests ≠ [] := fun h => h1 h
      simp [hne, Nat.mod_lt _ (List.length_pos_iff.2 hne)]

/-- One round of service in two cases. -/
theorem serve_cases (s : State) :
    (chooseIrq s = none ∧ serve s = s) ∨ (∃ h, chooseIrq s = some h ∧ serve s = runHandler h s) := by
  cases h : chooseIrq s <;> simp [serve, h]

/-! ### Contexts -/

/-- R281: a foreground operation that answers a next state was issued by the foreground, between operations. -/
theorem inForeground_next {s t : State} {a : Answer} (h : inForeground s a = .next t) :
    s.cpu.handler = none ∧ s.fg = .idle ∧ a = .next t := by
  unfold inForeground Cpu.inIsr at h
  cases hh : s.cpu.handler <;> simp only [hh, Option.isSome_none, Option.isSome_some, if_true, if_false,
    Bool.false_eq_true] at h
  · cases hf : s.fg <;> (simp [hf, Fg.isIdle] at h; try exact ⟨rfl, rfl, h⟩)
  · cases h

/-- R281: the foreground, between operations, performs the operation. -/
theorem inForeground_idle {s : State} (a : Answer) (hh : s.cpu.handler = none) (hf : s.fg = .idle) :
    inForeground s a = a := by
  simp [inForeground, Cpu.inIsr, hh, hf, Fg.isIdle]

/-- R281: inside its handler a body is performed. -/
theorem inHandler_eq {h : Handler} {s : State} (a : Answer) (e : s.cpu.handler = some h) : inHandler h s a = a := by
  simp [inHandler, e]

/-- R281: a body that answers a next state was performed inside its handler. -/
theorem inHandler_next {h : Handler} {s t : State} {a : Answer} (e : inHandler h s a = .next t) :
    s.cpu.handler = some h ∧ a = .next t := by
  unfold inHandler at e
  split at e
  · next hh => exact ⟨hh, e⟩
  · cases e

/-- R281, R129: where a ring operation answers a next state. -/
theorem inRingContext_next {hs : List Handler} {s t : State} {a : Answer}
    (e : inRingContext hs s a = .next t) :
    a = .next t ∧ ((∃ h ∈ hs, s.cpu.handler = some h) ∨
      (s.cpu.handler = none ∧ s.fg = .idle ∧ s.unserialised = false)) := by
  unfold inRingContext at e
  split at e
  · next h hh =>
    split at e
    · next hm => exact ⟨e, .inl ⟨h, hm, hh⟩⟩
    · cases e
  · next hh =>
    split at e
    · next hi =>
      split at e
      · cases e
      · next hg =>
        refine ⟨e, .inr ⟨hh, ?_, by simpa using hg⟩⟩
        cases hf : s.fg <;> (simp [hf, Fg.isIdle] at hi; try rfl)
    · cases e

end Sys2Proof.Machine
end

