-- ==== Sys2Proof/Laws/PerInstr.lean ====
section
/-! SUPPORT. The family `FixedLength` of statements per instruction: the length of a word is fixed by its opcode byte and
`W_TIME` alone (R91), so every instruction's encoding has the length its opcode byte gives. -/

namespace Sys2Proof.Laws

/-- `leBytes` gives as many bytes as it is asked for (R93). -/
theorem leBytes_length (n v : Nat) : (leBytes n v).length = n := by
  induction n generalizing v with
  | zero => rfl
  | succ n ih => simp [leBytes, ih]

end Sys2Proof.Laws

namespace Sys2Proof.Laws.FixedLength

/-- R91: under every parameters the encoding has the length that its opcode byte gives. -/
def Statement (i : Instr) : Prop := ∀ P : Params, (encode P i).length = opLength P i.opcode

theorem rbPush (r : RingSel) (v : Byte) : Statement (.rbPush r v) := fun _ => rfl
theorem rbPop (r : RingSel) : Statement (.rbPop r) := fun _ => rfl
theorem rbTop (r : RingSel) : Statement (.rbTop r) := fun _ => rfl
theorem rbEmpty (r : RingSel) : Statement (.rbEmpty r) := fun _ => rfl
theorem rbFull (r : RingSel) : Statement (.rbFull r) := fun _ => rfl
theorem rbSize (r : RingSel) : Statement (.rbSize r) := fun _ => rfl
theorem clkProcess : Statement (.clkProcess) := fun _ => rfl
theorem clkNow : Statement (.clkNow) := fun _ => rfl
theorem dlNew (d t : Nat) : Statement (.dlNew d t) := by
  intro P
  simp [encode, Instr.operands, Instr.opcode, opLength, leBytes_length]
  omega
theorem dlElapsed (d : Nat) : Statement (.dlElapsed d) := fun _ => rfl
theorem dlRestart (d : Nat) : Statement (.dlRestart d) := fun _ => rfl
theorem dlCancel (d : Nat) : Statement (.dlCancel d) := fun _ => rfl
theorem swNew (w : Nat) : Statement (.swNew w) := fun _ => rfl
theorem swElapsedTime (w : Nat) : Statement (.swElapsedTime w) := fun _ => rfl
theorem btfCheck (b : Byte) : Statement (.btfCheck b) := fun _ => rfl
theorem spInit (baud : BitVec 32) (a : Bool) : Statement (.spInit baud a) := by
  intro P
  simp [encode, Instr.operands, Instr.opcode, opLength, leBytes_length]
theorem spEmpty : Statement (.spEmpty) := fun _ => rfl
theorem spTxEmpty : Statement (.spTxEmpty) := fun _ => rfl
theorem spTxReady : Statement (.spTxReady) := fun _ => rfl
theorem spRead : Statement (.spRead) := fun _ => rfl
theorem spWrite (b : Byte) : Statement (.spWrite b) := fun _ => rfl
theorem spFlush : Statement (.spFlush) := fun _ => rfl
theorem spProcessRx : Statement (.spProcessRx) := fun _ => rfl
theorem spIntrRx : Statement (.spIntrRx) := fun _ => rfl
theorem spProcessTx : Statement (.spProcessTx) := fun _ => rfl
theorem spIntrTx : Statement (.spIntrTx) := fun _ => rfl
theorem spOverflow : Statement (.spOverflow) := fun _ => rfl
theorem spClearOverflow : Statement (.spClearOverflow) := fun _ => rfl
theorem adcProcess : Statement (.adcProcess) := fun _ => rfl
theorem adcValue : Statement (.adcValue) := fun _ => rfl
theorem adcStart : Statement (.adcStart) := fun _ => rfl
theorem adcNext : Statement (.adcNext) := fun _ => rfl
theorem adcValueOf (i : Nat) : Statement (.adcValueOf i) := fun _ => rfl
theorem cfPushData (b : Byte) : Statement (.cfPushData b) := fun _ => rfl
theorem cfPayload (i : Nat) : Statement (.cfPayload i) := fun _ => rfl
theorem blSignal (c on off : Nat) : Statement (.blSignal c on off) := by
  intro P
  simp [encode, Instr.operands, Instr.opcode, opLength, leBytes_length]
  omega
theorem blProcess : Statement (.blProcess) := fun _ => rfl
theorem pump : Statement (.pump) := fun _ => rfl
theorem wait (t : Nat) : Statement (.wait t) := by
  intro P
  simp [encode, Instr.operands, Instr.opcode, opLength, leBytes_length]
  omega
theorem cli : Statement (.cli) := fun _ => rfl
theorem sei : Statement (.sei) := fun _ => rfl
theorem envTick (n : Nat) : Statement (.envTick n) := by
  intro P
  simp [encode, Instr.operands, Instr.opcode, opLength, leBytes_length]
  omega
theorem envRx (d : Byte) (ovf fe : Bool) : Statement (.envRx d ovf fe) := fun _ => rfl
theorem envTxDone : Statement (.envTxDone) := fun _ => rfl
theorem envAdcDone (n : Nat) : Statement (.envAdcDone n) := by
  intro P
  simp [encode, Instr.operands, Instr.opcode, opLength, leBytes_length]
theorem envReset : Statement (.envReset) := fun _ => rfl

end Sys2Proof.Laws.FixedLength
end

