-- ==== Sys2Proof/Laws/Runs.lean ====
section
/-! SUPPORT. Each induction over a run, once: what every environment step, handler and labelled step keeps, a gap and a
machine step keep. -/

namespace Sys2Proof.Machine

/-- What every handler run keeps, one round of service keeps. -/
theorem serve_keeps {P : State → Prop} (hs : ∀ h s, chooseIrq s = some h → P s → P (runHandler h s)) {s : State}
    (h : P s) : P (serve s) := by
  obtain ⟨-, e⟩ | ⟨x, hx, e⟩ := serve_cases s
  · rwa [e]
  · rw [e]; exact hs x s hx h

/-- What every handler run keeps, prompt service keeps (R268). -/
theorem serveAll_keeps {P : State → Prop} (hs : ∀ h s, chooseIrq s = some h → P s → P (runHandler h s)) {s : State}
    (h : P s) : P (serveAll s) :=
  serve_keeps hs (serve_keeps hs (serve_keeps hs h))

/-- What every enabled environment step and every handler run keep, and a reset too where one stands in the gap, the moves
of a gap keep (R10). -/
theorem applyMoves_keeps {P : State → Prop} (he : ∀ (e : EnvEvent) s, e.enabled s = true → P s → P (e.apply s))
    (hs : ∀ h s, chooseIrq s = some h → P s → P (runHandler h s)) {g : List Move}
    (hr : Move.reset ∈ g → ∀ s, P s → P (hardwareReset s)) {s : State} (h : P s) : P (applyMoves g s) := by
  unfold applyMoves
  induction g generalizing s with
  | nil => exact h
  | cons m g ih =>
    refine ih (fun hm => hr (.tail _ hm)) ?_
    cases m with
    | event e =>
      simp only [applyMove, envStep]
      split
      · next hen => exact he e s hen h
      · exact h
    | irq => exact serve_keeps hs h
    | reset => exact hr (.head _) s h

/-- What every enabled environment step and every handler run keep, and a reset too where one stands in it, a gap keeps
(R10, R268). -/
theorem gap_keeps {P : State → Prop} (he : ∀ (e : EnvEvent) s, e.enabled s = true → P s → P (e.apply s))
    (hs : ∀ h s, chooseIrq s = some h → P s → P (runHandler h s)) {g : List Move}
    (hr : Move.reset ∈ g → ∀ s, P s → P (hardwareReset s)) {s : State} (h : P s) : P (gap g s) :=
  serveAll_keeps hs (applyMoves_keeps he hs hr h)

/-- What every tick and every handler run keep, `n` ticks keep (R100). -/
theorem tickMany_keeps {P : State → Prop} (ht : ∀ s, P s → P (counterTick s))
    (hs : ∀ h s, chooseIrq s = some h → P s → P (runHandler h s)) (n : Nat) {s : State} (h : P s) :
    P (tickMany n s) := by
  induction n generalizing s with
  | zero => exact h
  | succ n ih =>
    cases n with
    | zero => exact ht s h
    | succ n => exact ih (serveAll_keeps hs (ht s h))

/-- What every labelled step, environment step and handler run keep, and a reset too where the schedule holds one, a run of
the foreground keeps. With `NoReset s.env` a part of `P`, no reset is asked about. -/
theorem runFg_keeps {P : State → Prop} (hf : ∀ s t, fgStep s = .next t → P s → P t)
    (hd : ∀ s g gs, s.env = g :: gs → P s → P { s with env := gs })
    (he : ∀ (e : EnvEvent) s, e.enabled s = true → P s → P (e.apply s))
    (hs : ∀ h s, chooseIrq s = some h → P s → P (runHandler h s))
    (hr : ∀ s g gs, s.env = g :: gs → Move.reset ∈ g → P s → ∀ u, P u → P (hardwareReset u)) (n : Nat) {s t : State}
    (h : P s) (e : runFg n s = .next t) : P t := by
  induction n generalizing s with
  | zero => exact hf s t e h
  | succ n ih =>
    unfold runFg at e
    split at e
    · next s1 h1 =>
      have p1 := hf s s1 h1 h
      split at e
      · cases e; exact p1
      · split at e
        · next g gs hg => exact ih (gap_keeps he hs (fun hm => hr s1 g gs hg hm p1) (hd s1 g gs hg p1)) e
        · split at e
          · cases e; exact serveAll_keeps hs p1
          · exact ih (serveAll_keeps hs p1) e
    · cases e
    · cases e

/-- A handler's body after a gap, in its two cases: performed and returned from, or a reset in the gap (R266, R270, R300). -/
theorem endHandler_next {s t : State} {a : Answer} (e : endHandler s a = .next t) :
    (s.cpu.handler ≠ none ∧ ∃ u, a = .next u ∧ t = returnIrq u) ∨ (s.cpu.handler = none ∧ t = s) := by
  unfold endHandler Cpu.inIsr at e
  cases hh : s.cpu.handler <;> simp only [hh, Option.isSome_none, Option.isSome_some, if_true, if_false,
    Bool.false_eq_true] at e
  · cases e; exact .inr ⟨rfl, rfl⟩
  · split at e
    · next u => cases e; exact .inl ⟨by simp, u, rfl, rfl⟩
    · cases e
    · cases e

/-- One step in its six cases: a handler's body, a reset in the gap before it, a handler's entry, nothing to do, an
operation that goes on, an operation performed. -/
theorem step_cases {s t : State} (e : step s = .next t) :
    (∃ h u, s.cpu.handler = some h ∧ (outerGap s).cpu.handler ≠ none ∧ exec h.body (outerGap s) = .next u ∧
      t = returnIrq u) ∨
    (s.cpu.handler ≠ none ∧ (outerGap s).cpu.handler = none ∧ t = outerGap s) ∨
    (s.cpu.handler = none ∧ chooseIrq s ≠ none ∧ t = enterHandler (outerGap s)) ∨
    (s.cpu.handler = none ∧ chooseIrq s = none ∧ fetch s = .nothing ∧ t = s) ∨
    (s.cpu.handler = none ∧ chooseIrq s = none ∧ fetch s = .goOn ∧ continueFg s = .next t) ∨
    (∃ i rest, s.cpu.handler = none ∧ chooseIrq s = none ∧ fetch s = .perform i rest ∧
      exec i { s with issue := rest } = .next t) := by
  unfold step at e
  split at e
  · next h hh =>
    obtain ⟨hn, u, hu, ht⟩ | ⟨hn, ht⟩ := endHandler_next e
    · exact .inl ⟨h, u, hh, hn, hu, ht⟩
    · exact .inr (.inl ⟨by simp [hh], hn, ht⟩)
  · next hh =>
    split at e
    · next h hc => cases e; exact .inr (.inr (.inl ⟨hh, by simp [hc], rfl⟩))
    · next hc =>
      split at e
      · next hf => cases e; exact .inr (.inr (.inr (.inl ⟨hh, hc, hf, rfl⟩)))
      · next hf => exact .inr (.inr (.inr (.inr (.inl ⟨hh, hc, hf, e⟩))))
      · next i rest hf => exact .inr (.inr (.inr (.inr (.inr ⟨i, rest, hh, hc, hf, e⟩))))
      · cases e

/-- The gap before a handler's entry or body, in its two cases. -/
theorem outerGap_cases (s : State) :
    (s.env = [] ∧ outerGap s = s) ∨ (∃ g gs, s.env = g :: gs ∧ outerGap s = applyMoves g { s with env := gs }) := by
  cases h : s.env <;> simp [outerGap, h]

/-- A handler's entry after a gap, in its two cases. -/
theorem enterHandler_cases (s : State) :
    (chooseIrq s = none ∧ enterHandler s = s) ∨ (∃ h, chooseIrq s = some h ∧ enterHandler s = takeIrq h s) := by
  cases h : chooseIrq s <;> simp [enterHandler, h]

end Sys2Proof.Machine
end

