-- ==== Sys2Proof/Tests/Slice0.lean ====
section
/-! SUPPORT. Tests: the checks of WellFormed and of the decoder, every constructor's decoding from a word written out from
the tables of 30_encoding.md, at most two one-step tests for each instruction with the results the rules' examples give
(parameters P0), and for every statement with hypotheses a witness that meets them. -/

namespace Sys2Proof.Tests

open Sys2Proof Sys2Proof.Machine

/-! ### WellFormed: each check refuses an ill-formed term (R93, R104) -/

theorem test_wf_deadline_index : (Instr.dlElapsed 2).wellFormed .p0 = false := by decide
theorem test_wf_deadline_duration : (Instr.dlNew 0 65536).wellFormed .p0 = false := by decide
theorem test_wf_stopwatch_index : (Instr.swNew 1).wellFormed .p0 = false := by decide
theorem test_wf_channel_index : (Instr.adcValueOf 3).wellFormed .p0 = false := by decide
theorem test_wf_payload_index : (Instr.cfPayload 1).wellFormed .p0 = false := by decide
theorem test_wf_pulse_count : (Instr.blSignal 256 0 0).wellFormed .p0 = false := by decide
theorem test_wf_blink_duration : (Instr.blSignal 1 65536 0).wellFormed .p0 = false := by decide
theorem test_wf_wait_duration : (Instr.wait 65536).wellFormed .p0 = false := by decide
theorem test_wf_tick_count : (Instr.envTick 65536).wellFormed .p0 = false := by decide
theorem test_wf_sample_width : (Instr.envAdcDone 1024).wellFormed .p0 = false := by decide
theorem test_wf_boundary : (Instr.dlNew 1 65535).wellFormed .p0 = true ∧ (Instr.envAdcDone 1023).wellFormed .p0 = true ∧
    (Instr.blSignal 255 65535 65535).wellFormed .p0 = true := by decide

/-! ### Decoding: words written out from the table of R95 -/

theorem test_decode_rings :
    decode .p0 [0x10, 0x01, 0x41] = .ok (.rbPush .tx 0x41, []) ∧ decode .p0 [0x11, 0x00] = .ok (.rbPop .rx, []) ∧
    decode .p0 [0x12, 0x01] = .ok (.rbTop .tx, []) ∧ decode .p0 [0x13, 0x00] = .ok (.rbEmpty .rx, []) ∧
    decode .p0 [0x14, 0x01] = .ok (.rbFull .tx, []) ∧ decode .p0 [0x15, 0x00] = .ok (.rbSize .rx, []) :=
  ⟨rfl, rfl, rfl, rfl, rfl, rfl⟩

theorem test_decode_clock : decode .p0 [0x20] = .ok (.clkProcess, []) ∧ decode .p0 [0x21] = .ok (.clkNow, []) :=
  ⟨rfl, rfl⟩

theorem test_decode_timers :
    decode .p0 [0x30, 0x01, 0x34, 0x12] = .ok (.dlNew 1 0x1234, []) ∧
    decode .p0 [0x31, 0x01] = .ok (.dlElapsed 1, []) ∧ decode .p0 [0x32, 0x01] = .ok (.dlRestart 1, []) ∧
    decode .p0 [0x33, 0x01] = .ok (.dlCancel 1, []) ∧ decode .p0 [0x38, 0x00] = .ok (.swNew 0, []) ∧
    decode .p0 [0x39, 0x00] = .ok (.swElapsedTime 0, []) :=
  ⟨rfl, rfl, rfl, rfl, rfl, rfl⟩

theorem test_decode_filter : decode .p0 [0x40, 0xA1] = .ok (.btfCheck 0xA1, []) := rfl

theorem test_decode_port :
    decode .p0 [0x50, 0x78, 0x56, 0x34, 0x12, 0x01] = .ok (.spInit 0x12345678 true, []) ∧
    decode .p0 [0x51] = .ok (.spEmpty, []) ∧ decode .p0 [0x52] = .ok (.spTxEmpty, []) ∧
    decode .p0 [0x53] = .ok (.spTxReady, []) ∧ decode .p0 [0x54] = .ok (.spRead, []) ∧
    decode .p0 [0x55, 0x42] = .ok (.spWrite 0x42, []) ∧ decode .p0 [0x56] = .ok (.spFlush, []) ∧
    decode .p0 [0x57] = .ok (.spProcessRx, []) ∧ decode .p0 [0x58] = .ok (.spIntrRx, []) ∧
    decode .p0 [0x59] = .ok (.spProcessTx, []) ∧ decode .p0 [0x5A] = .ok (.spIntrTx, []) ∧
    decode .p0 [0x5B] = .ok (.spOverflow, []) ∧ decode .p0 [0x5C] = .ok (.spClearOverflow, []) :=
  ⟨rfl, rfl, rfl, rfl, rfl, rfl, rfl, rfl, rfl, rfl, rfl, rfl, rfl⟩

theorem test_decode_scanner :
    decode .p0 [0x60] = .ok (.adcProcess, []) ∧ decode .p0 [0x61] = .ok (.adcValue, []) ∧
    decode .p0 [0x62] = .ok (.adcStart, []) ∧ decode .p0 [0x63] = .ok (.adcNext, []) ∧
    decode .p0 [0x64, 0x02] = .ok (.adcValueOf 2, []) :=
  ⟨rfl, rfl, rfl, rfl, rfl⟩

theorem test_decode_framer :
    decode .p0 [0x70, 0x80] = .ok (.cfPushData 0x80, []) ∧ decode .p0 [0x71, 0x00] = .ok (.cfPayload 0, []) :=
  ⟨rfl, rfl⟩

theorem test_decode_blink :
    decode .p0 [0x80, 0x02, 0xA0, 0x0F, 0xB8, 0x0B] = .ok (.blSignal 2 4000 3000, []) ∧
    decode .p0 [0x81] = .ok (.blProcess, []) :=
  ⟨rfl, rfl⟩

theorem test_decode_pump :
    decode .p0 [0x90] = .ok (.pump, []) ∧ decode .p0 [0x91, 0x02, 0x01] = .ok (.wait 0x102, []) :=
  ⟨rfl, rfl⟩

theorem test_decode_interrupts : decode .p0 [0xA0] = .ok (.cli, []) ∧ decode .p0 [0xA1] = .ok (.sei, []) := ⟨rfl, rfl⟩

theorem test_decode_environment :
    decode .p0 [0xE0, 0x2C, 0x01] = .ok (.envTick 300, []) ∧
    decode .p0 [0xE1, 0x31, 0x02] = .ok (.envRx 0x31 false true, []) ∧
    decode .p0 [0xE2] = .ok (.envTxDone, []) ∧ decode .p0 [0xE3, 0x55, 0x01] = .ok (.envAdcDone 0x155, []) ∧
    decode .p0 [0xEF] = .ok (.envReset, []) :=
  ⟨rfl, rfl, rfl, rfl, rfl⟩

/-! ### Decoding: refusals by name -/

theorem test_decode_truncated : decode .p0 [0x30, 0x01, 0x34] = .error .truncated := rfl
theorem test_decode_opcode : decode .p0 [0x16, 0x00] = .error .opcode := rfl
theorem test_decode_ring : decode .p0 [0x11, 0x02] = .error .ring := rfl
theorem test_decode_bool : decode .p0 [0x50, 0, 0, 0, 0, 0x02] = .error .bool := rfl
theorem test_decode_flags : decode .p0 [0xE1, 0x31, 0x04] = .error .flags := rfl
theorem test_decode_range : decode .p0 [0x31, 0x02] = .error .range := rfl

/-! ### One step of each instruction -/

/-- What a next state holds. -/
def after {α : Type} (a : Answer) (f : State → α) : Option α :=
  match a with
  | .next t => some (f t)
  | .fault _ => none
  | .refused _ => none

/-- The state after reset, with a schedule. -/
def base (env : List (List Move)) : State := { State.reset with env := env }

/-- The schedule of one clock reading in which the counter ticks once between N1 and N2. -/
def oneTick : List (List Move) := [tickGap 1, tickGap 0, [], []]

/-- The state after reset, inside a handler. -/
def inside (h : Handler) : State := { State.reset with cpu := { gie := false, handler := some h } }

/-- A ring of capacity 4 or 2 that holds the bytes. -/
def ringOf (n : Nat) (bs : List Byte) : Ring :=
  { buf := bs ++ List.replicate (n - bs.length) 0, head := 0, tail := bs.length % n, count := bs.length }

/-- A state with the rings given. -/
def rings (rx tx : List Byte) (s : State) : State :=
  { s with sp := { s.sp with rx := ringOf s.cfg.nRx rx, tx := ringOf s.cfg.nTx tx } }

/-- A state with a frame waiting. -/
def frame (d : Byte) (ovf fe : Bool) (s : State) : State := { s with hw := { s.hw with rxFrame := some ⟨d, ovf, fe⟩ } }

/-- A state whose clock reads `tally`, `cnt`. -/
def clockAt (tally cnt : Nat) (s : State) : State :=
  { s with clk := { s.clk with tally := tally }, hw := { s.hw with cnt := cnt } }

/-- A state whose deadline 0 and stopwatch 0 are constructed. -/
def timed (b d : Nat) (c : Bool) (s : State) : State :=
  { s with dl := s.dl.set 0 ⟨b, d, c, true⟩, sw := [⟨b, true⟩] }

/-- R121: the third push into a ring of two fails and leaves it. -/
theorem test_rb_push :
    after (exec (.rbPush .tx 0x43) (rings [] [0x41, 0x42] (base []))) (fun t => (t.result, t.sp.tx.q 2)) =
      some (.bool false, [0x41, 0x42]) := by decide

theorem test_rb_push_wraps :
    after (exec (.rbPush .tx 0x43) { rings [] [0x41, 0x42] (base []) with
      sp := { (rings [] [0x41, 0x42] (base [])).sp with tx := ⟨[0x41, 0x42], 1, 0, 1⟩ } })
      (fun t => (t.result, t.sp.tx.tail, t.sp.tx.q 2)) = some (.bool true, 1, [0x42, 0x43]) := by decide

theorem test_rb_pop :
    after (exec (.rbPop .rx) (rings [0x41, 0x42] [] (base []))) (fun t => (t.result, t.sp.rx.q 4)) =
      some (.byte 0x41, [0x42]) := by decide

theorem test_rb_pop_empty : exec (.rbPop .rx) (base []) = .fault .popEmpty := rfl

theorem test_rb_top :
    after (exec (.rbTop .rx) (rings [0x41, 0x42] [] (base []))) (fun t => (t.result, t.sp.rx.q 4)) =
      some (.byte 0x41, [0x41, 0x42]) := by decide

theorem test_rb_empty : after (exec (.rbEmpty .rx) (base [])) State.result = some (.bool true) := by decide

theorem test_rb_full :
    after (exec (.rbFull .tx) (rings [] [0x41, 0x42] (base []))) State.result = some (.bool true) := by decide

theorem test_rb_size : after (exec (.rbSize .rx) (rings [0x41] [] (base []))) State.result = some (.count 1) := by decide

/-- R136: 0x12 becomes 0x13, 0xFF becomes 0x00. -/
theorem test_clk_process :
    after (exec .clkProcess (clockAt 0x12 0 (inside .tov))) (fun t => t.clk.tally) = some 0x13 ∧
    after (exec .clkProcess (clockAt 0xFF 0 (inside .tov))) (fun t => t.clk.tally) = some 0 := by decide

/-- R96: tally 0x12, counter 0x34 is 0x1234. -/
theorem test_clk_now : after (exec .clkNow (clockAt 0x12 0x33 (base oneTick))) State.result = some (.time 0x1234) := by
  decide

/-- R137, R71: a wrap between N1 and N2 is served by its handler and the reading retried. -/
theorem test_clk_now_retries :
    after (exec .clkNow { clockAt 0x12 0xFF (base [tickGap 1, [], [], [], tickGap 2, [], [], []]) with
      cpu := { gie := true, handler := none } }) State.result = some (.time 0x1302) := by decide

/-- R151: clock 0x0064, duration 50. -/
theorem test_dl_new :
    after (exec (.dlNew 0 50) (clockAt 0 0x63 (base oneTick))) (fun t => t.dl[0]?) =
      some (some ⟨0x0064, 0x0032, false, true⟩) := by decide

/-- R152: base 100, duration 50: clock 150 is not elapsed, clock 151 is. -/
theorem test_dl_elapsed :
    after (exec (.dlElapsed 0) (timed 100 50 false (clockAt 0 149 (base oneTick)))) State.result = some (.bool false) ∧
    after (exec (.dlElapsed 0) (timed 100 50 false (clockAt 0 150 (base oneTick)))) State.result = some (.bool true) := by
  decide

theorem test_dl_elapsed_unmade : exec (.dlElapsed 0) (base oneTick) = .fault .unconstructedDeadline := rfl

/-- R153: base 100, duration 50, cancelled, clock 400. -/
theorem test_dl_restart :
    after (exec (.dlRestart 0) (timed 100 50 true (clockAt 1 143 (base oneTick)))) (fun t => t.dl[0]?) =
      some (some ⟨400, 50, false, true⟩) := by decide

theorem test_dl_cancel :
    after (exec (.dlCancel 0) (timed 100 50 false (base []))) (fun t => t.dl[0]?) = some (some ⟨100, 50, true, true⟩) := by
  decide

/-- R155: clock 0x1302. -/
theorem test_sw_new :
    after (exec (.swNew 0) (clockAt 0x13 0x01 (base oneTick))) (fun t => t.sw) = some [⟨0x1302, true⟩] := by decide

/-- R156: base 0xFFF0, clock 0x0010 gives 0x0020. -/
theorem test_sw_elapsed_time :
    after (exec (.swElapsedTime 0) (timed 0xFFF0 0 false (clockAt 0 0x0F (base oneTick)))) State.result =
      some (.time 0x0020) := by decide

/-- R166: the third byte of the sequence signals and is returned. -/
theorem test_btf_check :
    after (exec (.btfCheck 0xA3) { base [] with sp := { (base []).sp with progress := 2 } })
      (fun t => (t.result, t.sp.progress, t.bootRequest)) = some (.byte 0xA3, 0, 1) := by decide

/-- R167: a second 0xA1 resets progress to 0. -/
theorem test_btf_mismatch :
    after (exec (.btfCheck 0xA1) { base [] with sp := { (base []).sp with progress := 1 } })
      (fun t => (t.sp.progress, t.bootRequest)) = some (0, 0) := by decide

theorem test_sp_init :
    after (exec (.spInit 9600 true) (rings [0x41] [0x42] (base [])))
      (fun t => (t.sp.baud, t.sp.asyncTx, t.sp.rx.count, t.sp.tx.count)) = some (9600, true, 0, 0) := by decide

/-- R178: a waiting frame does not make `SP.EMPTY` false. -/
theorem test_sp_empty : after (exec .spEmpty (frame 0x31 false false (base []))) State.result = some (.bool true) := by
  decide

theorem test_sp_tx_empty : after (exec .spTxEmpty (rings [] [0x41] (base []))) State.result = some (.bool false) := by
  decide

theorem test_sp_tx_ready :
    after (exec .spTxReady (rings [] [0x41, 0x42] (base []))) State.result = some (.bool false) := by decide

/-- R181: the poll takes the frame that arrives while the read spins. -/
theorem test_sp_read :
    after (exec .spRead (base [[], [.event (.rx 0x31 false false)], [], []]))
      (fun t => (t.result, t.sp.rx.count, t.cpu.gie)) = some (.byte 0x31, 0, true) := by decide

/-- R182: a full ring is drained by one byte and the write pushed. -/
theorem test_sp_write :
    after (exec (.spWrite 0x43) (rings [] [0x41, 0x42] (base []))) (fun t => (t.lineOut, t.sp.tx.q 2)) =
      some ([0x41], [0x42, 0x43]) := by decide

/-- R183: the flush spins until the transmitter is ready for the second byte. -/
theorem test_sp_flush :
    after (exec .spFlush (rings [] [0x41, 0x42] (base [[], [], [], [.event .txDone], [], [], []])))
      (fun t => (t.fg, t.lineOut)) = some (.idle, [0x41, 0x42]) := by decide

theorem test_sp_process_rx :
    after (exec .spProcessRx (frame 0x31 false false (base []))) (fun t => (t.sp.rx.q 4, t.hw.rxFrame)) =
      some ([0x31], none) := by decide

/-- R185, R262: overflow counted and the byte kept; both flags: counted once and the byte discarded. -/
theorem test_sp_intr_rx :
    after (exec .spIntrRx (frame 0x31 true false (inside .rxc))) (fun t => (t.sp.loss, t.sp.rx.q 4, t.isrResult)) =
      some (1, [0x31], .bool true) ∧
    after (exec .spIntrRx (frame 0x31 true true (inside .rxc))) (fun t => (t.sp.loss, t.sp.rx.q 4, t.isrResult)) =
      some (1, [], .bool false) := by decide

theorem test_sp_process_tx :
    after (exec .spProcessTx (rings [] [0x41, 0x42] (base []))) (fun t => (t.lineOut, t.sp.tx.q 2, t.hw.txEmpty)) =
      some ([0x41], [0x42], false) := by decide

/-- R187: the invocation that empties the ring disarms. -/
theorem test_sp_intr_tx :
    after (exec .spIntrTx (rings [] [0x42] { inside .dre with hw := { (inside .dre).hw with dreIe := true } }))
      (fun t => (t.lineOut, t.sp.tx.q 2, t.hw.dreIe)) = some ([0x42], [], false) := by decide

/-- A state whose loss counter holds 5. -/
def lossy : State := { base [] with sp := { (base []).sp with loss := 5 } }

theorem test_sp_overflow : after (exec .spOverflow lossy) State.result = some (.loss 5) := by decide
theorem test_sp_clear_overflow : after (exec .spClearOverflow lossy) (fun t => t.sp.loss) = some 0 := by decide

/-- A state whose scanner is at channel `c`, with a conversion in flight or not, and a finished one reported or not. -/
def scanning (c : Nat) (flight ready : Bool) : State :=
  { base [] with adc := { cur := c, inProgress := flight, latest := [0x155, 0x010, 0x3FF], valid := [true, false, true] },
                 hw := { (base []).hw with adcReady := ready, adcBusy := if flight && !ready then some c else none,
                                           adcResult := 0x155 } }

theorem test_adc_process :
    after (exec .adcProcess (scanning 1 true true)) (fun t => (t.result, t.adc.latest, t.adc.valid, t.adc.inProgress)) =
      some (.bool true, [0x155, 0x155, 0x3FF], [true, true, true], false) ∧
    after (exec .adcProcess (scanning 1 false true)) State.result = some (.bool false) := by decide

theorem test_adc_value : after (exec .adcValue (scanning 0 false false)) State.result = some (.sample 0x155) := by decide
theorem test_adc_value_unset : exec .adcValue (scanning 1 false false) = .fault .adcValueBeforeCompletion := rfl

theorem test_adc_start :
    after (exec .adcStart (scanning 1 false true)) (fun t => (t.adc.inProgress, t.hw.adcBusy, t.hw.adcReady)) =
      some (true, some 1, false) := by decide

/-- R214: index 2 of 3 wraps to 0. -/
theorem test_adc_next :
    after (exec .adcNext (scanning 2 false true)) (fun t => (t.adc.cur, t.adc.inProgress, t.hw.adcBusy)) =
      some (0, true, some 0) := by decide

theorem test_adc_value_of :
    after (exec (.adcValueOf 2) (scanning 0 false false)) State.result = some (.sample 0x3FF) := by decide

theorem test_cf_push_data : after (exec (.cfPushData 0x31) (base [])) State.result = some (.event (.cmd 0x31)) := by
  decide

/-- A state whose framer waits for a payload since clock 0. -/
def awaiting (s : State) : State :=
  { s with cf := { s.cf with st := .awaitingPayload, deadline := { s.cf.deadline with made := true } } }

/-- R230: 100 ticks after the marker is in time, 101 is late (`PAYLOAD_TIMEOUT` is 100). -/
theorem test_cf_push_data_boundary :
    after (exec (.cfPushData 0x80) (awaiting (clockAt 0 99 (base oneTick)))) (fun t => (t.result, t.cf.payload)) =
      some (.event .extReady, 0x80) ∧
    after (exec (.cfPushData 0x80) (awaiting (clockAt 0 100 (base oneTick)))) (fun t => (t.result, t.cf.st)) =
      some (.event .bad, .idle) := by decide

/-- A state whose framer has a payload. -/
def loaded : State := { base [] with cf := { (base []).cf with payload := 0x0A, ready := true } }

theorem test_cf_payload : after (exec (.cfPayload 0) loaded) State.result = some (.byte 0x0A) := by decide
theorem test_cf_payload_unset : exec (.cfPayload 0) (base []) = .fault .payloadUnset := rfl

/-- R241: `BL.SIGNAL 2, 4000, 3000` at clock 1000. -/
theorem test_bl_signal :
    after (exec (.blSignal 2 4000 3000) (clockAt 3 231 (base ([] :: oneTick)))) State.bl =
      some ⟨2, 4000, 3000, true, 1000, .high⟩ := by decide

/-- A state in the first on-phase of R241's example. -/
def blinking (s : State) : State := { s with bl := ⟨2, 4000, 3000, true, 1000, .high⟩ }

/-- R137, R138, R10: ticks after N3 and N4 come after the sample and before the edge of `bl.out`. -/
theorem test_bl_process_late_ticks :
    after (exec .blProcess (blinking (clockAt 19 136 (base [tickGap 1, [], tickGap 2, tickGap 3]))))
      (fun t => (t.bl.phaseStart, t.bl.out, t.ticks)) = some (5001, .low, 6) := by decide

/-- R242: no change at clock 5000, the on-phase ends at clock 5001. -/
theorem test_bl_process :
    after (exec .blProcess (blinking (clockAt 19 135 (base oneTick)))) State.bl = some ⟨2, 4000, 3000, true, 1000, .high⟩ ∧
    after (exec .blProcess (blinking (clockAt 19 136 (base oneTick)))) State.bl = some ⟨1, 4000, 3000, false, 5001, .low⟩ := by
  decide

/-- R250: one frame taken, one byte sent, one conversion completed and the next channel started. -/
theorem test_pump :
    after (exec .pump (rings [] [0x41, 0x42] (frame 0x31 false false (scanning 2 true true))))
      (fun t => (t.fg, t.sp.rx.q 4, t.lineOut, t.adc.cur, t.adc.latest)) =
      some (.idle, [0x31], [0x41], 0, [0x155, 0x010, 0x155]) := by decide

/-- R251: a first test 3 ticks after the start ends a wait of 2. -/
theorem test_wait :
    after (exec (.wait 2) (base [tickGap 1, [], [], [], [], tickGap 2, tickGap 1])) (fun t => (t.fg, t.ticks)) = some (.idle, 4) := by
  decide

theorem test_cli : after (exec .cli { base [] with cpu := ⟨true, none⟩ }) State.cpu = some ⟨false, none⟩ := by decide
theorem test_sei : after (exec .sei (base [])) State.cpu = some ⟨true, none⟩ := by decide

theorem test_env_tick :
    after (exec (.envTick 2) (clockAt 0 0xFF (base []))) (fun t => (t.hw.cnt, t.hw.tovPending)) = some (1, true) := by
  decide

theorem test_env_rx :
    after (exec (.envRx 0x31 true false) (base [])) (fun t => t.hw.rxFrame) = some (some ⟨0x31, true, false⟩) := by decide

/-- A state whose transmitter is busy. -/
def sending (s : State) : State := { s with hw := { s.hw with txEmpty := false } }

theorem test_env_tx_done : after (exec .envTxDone (sending (base []))) (fun t => t.hw.txEmpty) = some true := by decide

theorem test_env_adc_done :
    after (exec (.envAdcDone 0x3FF) (scanning 1 true false)) (fun t => (t.hw.adcResult, t.hw.adcReady, t.hw.adcBusy)) =
      some (0x3FF, true, none) := by decide

theorem test_env_reset :
    after (exec .envReset (rings [0x41] [0x42] { sending lossy with lineOut := [0x55] }))
      (fun t => (t.sp.loss, t.sp.rx.count, t.hw.txEmpty, t.lineOut, t.past.line)) =
      some (0, 0, true, [], [0x55]) := by decide

/-- R300: a reset in a gap of a flush abandons it; the words after it stay to be issued. -/
theorem test_env_reset_inside :
    after (exec .spFlush { rings [] [0x41, 0x42] (base [[], [.reset], []]) with issue := [0xA1] })
      (fun t => (t.fg, t.sp.tx.count, t.past.line, t.issue)) = some (.idle, 0, [0x41], [0xA1]) := by decide

/-- R68, R300: a reset in the gap after RD2c, between the poll's `SEI` and a request that was masked, leaves it unserved. -/
theorem test_env_reset_before_service :
    after (step { rings [] [0x41] (base [[.reset]]) with fg := .rd2c, hw := { (base []).hw with dreIe := true } })
      (fun t => (t.fg, t.cpu.gie, t.past.line)) = some (.idle, false, []) := by decide

/-! ### The host's two questions, on one word of each kind -/

theorem test_table_word : decodeTableWord 16 0x0210 = none ∧ decodeTableWord 24 0x410110 = some (.rbPush .tx 0x41) :=
  ⟨rfl, rfl⟩

theorem test_fetch_word :
    after (step (State.reset.withFetchWord 8 0xA1)) (fun t => (t.cpu.gie, t.issue)) = some (true, []) ∧
    after (step (State.reset.withFetchWord 8 0x20)) (fun t => (t.clk.tally, t.cpu.handler)) = some (1, none) := by decide

/-! ### Witnesses: for each statement with hypotheses, a state and operands that meet them, clause by clause -/

theorem witness_DecodeEncode : (Instr.dlNew 1 65535).wellFormed .p0 = true ∧ (Instr.envRx 0 true true).wellFormed .p0 = true :=
  ⟨rfl, rfl⟩

theorem witness_EncodeDecode : decode .p0 [0x30, 0x01, 0xFF, 0xFF, 0x21] = .ok (.dlNew 1 65535, [0x21]) := rfl

theorem witness_UnassignedOpcodes : ∀ i : Instr, i.opcode ≠ 0x16 := by intro i; cases i <;> simp [Instr.opcode]

/-- P0 with a pulse count of 7 bits, so that an operand byte can exceed it. -/
def narrowCount : Params := { Params.p0 with wCount := 7 }

theorem witness_OperandChecks :
    2 ≤ (2 : Byte).toNat ∧ (0x15 : Byte) ∈ ([0x11, 0x12, 0x13, 0x14, 0x15] : List Byte) ∧
    (0x33 : Byte) ∈ ([0x31, 0x32, 0x33] : List Byte) ∧ Params.p0.nDl ≤ (2 : Byte).toNat ∧
    Params.p0.timeBytes ≤ ([0, 0] : List Byte).length ∧ (0x39 : Byte) ∈ ([0x38, 0x39] : List Byte) ∧
    Params.p0.nSw ≤ (1 : Byte).toNat ∧ Params.p0.channels.length ≤ (3 : Byte).toNat ∧ (1 : Byte) ≠ 0 ∧
    (1 : Byte).toNat < 2 ∧ 4 ≤ (4 : Byte).toNat ∧ 2 ^ Params.p0.wAdc ≤ (0 : Byte).toNat + 256 * (4 : Byte).toNat ∧
    2 ^ narrowCount.wCount ≤ (128 : Byte).toNat ∧ 2 * narrowCount.timeBytes ≤ ([0, 0, 0, 0] : List Byte).length := by
  decide

/-- The state after reset with words issued. -/
def issuing (bs : List Byte) : State := { State.reset with issue := bs }

/-- A state with interrupts on. -/
def serving (s : State) : State := { s with cpu := { gie := true, handler := none } }

/-- A state with TOV pending. -/
def overflowed (s : State) : State := { s with hw := { s.hw with tovPending := true } }

theorem witness_StepRunsIssued_idle :
    (issuing [0xA1]).cpu.handler = none ∧ chooseIrq (issuing [0xA1]) = none ∧
    decode (issuing [0xA1]).cfg (issuing [0xA1]).issue = .ok (.sei, []) ∧ (issuing [0xA1]).fg = .idle :=
  ⟨rfl, rfl, rfl, rfl⟩

theorem witness_StepRunsIssued_inside :
    let s := { issuing [0xE1, 0x31, 0x00] with fg := .w5 }
    s.cpu.handler = none ∧ chooseIrq s = none ∧ decode s.cfg s.issue = .ok (.envRx 0x31 false false, []) ∧
    (Instr.envRx 0x31 false false).isEnv = true :=
  ⟨rfl, rfl, rfl, rfl⟩

theorem witness_StepRunsHandler :
    (inside .tov).cpu.handler = some .tov ∧ (inside .tov).env = [] ∧
    (∃ t, exec Handler.tov.body { inside .tov with env := (inside .tov).env.tail } = .next t) ∧
    ({ inside .dre with env := [[]] } : State).env.head? = some [] ∧
    (∃ t, exec Handler.dre.body { inside .dre with env := [] } = .next t) :=
  ⟨rfl, rfl, ⟨_, rfl⟩, rfl, ⟨_, rfl⟩⟩

theorem witness_StepRunsHandler_moves :
    let s := { inside .tov with env := [tickGap 1] }
    s.cpu.handler = some .tov ∧ s.env = tickGap 1 :: [] ∧ Move.reset ∉ tickGap 1 ∧
    ∃ t, exec Handler.tov.body (applyMoves (tickGap 1) { s with env := [] }) = .next t :=
  ⟨rfl, rfl, by decide, _, rfl⟩

theorem witness_StepTakesInterrupt :
    let s := serving (overflowed (base []))
    s.cpu.gie = true ∧ s.cpu.handler = none ∧ s.requests ≠ [] ∧ s.env = [] ∧ (base []).cpu.gie = false ∧
    (inside .tov).cpu.handler ≠ none := by decide

theorem witness_StepTakesInterrupt_moves :
    let s := serving (overflowed (base [[.event .tick]]))
    s.cpu.gie = true ∧ s.cpu.handler = none ∧ s.requests ≠ [] ∧ s.env = [.event .tick] :: [] ∧
    Move.irq ∉ [Move.event .tick] ∧ Move.reset ∉ [Move.event .tick] := by decide

theorem witness_StepRefusesWords :
    let s := issuing [0x16]
    Ready s ∧ chooseIrq s = none ∧ s.issue ≠ [] ∧ decode s.cfg s.issue = .error .opcode :=
  ⟨⟨rfl, rfl⟩, rfl, by decide, rfl⟩

theorem witness_ResetInv : Params.p0.valid = true := by decide

theorem witness_StepKeepsInv : Inv (issuing [0x55, 0x41]) ∧ ∃ t, step (issuing [0x55, 0x41]) = .next t :=
  ⟨.of_check (by decide) trivial, _, rfl⟩

theorem witness_StepKeepsInv_progress :
    let s := { base [tickGap 1, []] with fg := .now .n1 .blSignal }
    Inv s ∧ ∃ t, step s = .next t :=
  ⟨.of_check (by decide) ⟨trivial, trivial⟩, _, rfl⟩

theorem witness_InProgressNeverStops_foreground :
    let s := { rings [0x41] [] (base []) with fg := Fg.rd3 }
    Inv s ∧ s.cpu.handler = none ∧ s.fg ≠ .idle :=
  ⟨.of_check (by decide) Nat.one_ne_zero, rfl, by decide⟩

theorem witness_InProgressNeverStops_handler :
    let s := frame 0x31 false false (inside .rxc)
    Inv s ∧ s.cpu.handler ≠ none ∧ NoReset (s.env.take 1) :=
  ⟨.of_check (by decide) trivial, by decide, by decide⟩

theorem witness_FaultOrigins_popEmpty :
    Inv (issuing [0x11, 0x00]) ∧ step (issuing [0x11, 0x00]) = .fault .popEmpty :=
  ⟨.of_check (by decide) trivial, rfl⟩

theorem witness_FaultOrigins_adc :
    Inv (issuing [0x64, 0x02]) ∧ step (issuing [0x64, 0x02]) = .fault .adcValueBeforeCompletion :=
  ⟨.of_check (by decide) trivial, rfl⟩

theorem witness_FaultOrigins_deadline :
    Inv (issuing [0x32, 0x01]) ∧ step (issuing [0x32, 0x01]) = .fault .unconstructedDeadline :=
  ⟨.of_check (by decide) trivial, rfl⟩

theorem witness_FaultOrigins_stopwatch :
    Inv (issuing [0x39, 0x00]) ∧ step (issuing [0x39, 0x00]) = .fault .unconstructedStopwatch :=
  ⟨.of_check (by decide) trivial, rfl⟩

theorem witness_FaultOrigins_payload :
    Inv (issuing [0x71, 0x00]) ∧ step (issuing [0x71, 0x00]) = .fault .payloadUnset :=
  ⟨.of_check (by decide) trivial, rfl⟩

/-- A full TX ring, the next push of which would wrap. -/
def fullTx : State := rings [] [0x41, 0x42] (base [])

theorem witness_RbPush_full :
    RingReady ringHandlers fullTx ∧ (fullTx.ring .tx).count = capacity fullTx.cfg .tx ∧
    RingOk (capacity fullTx.cfg .tx) (fullTx.ring .tx) :=
  ⟨.inr ⟨⟨rfl, rfl⟩, rfl⟩, rfl, .of_check rfl⟩

theorem witness_RbPush_free :
    let s := rings [0x41, 0x42, 0x43] [] (inside .rxc)
    RingReady ringHandlers s ∧ (s.ring .rx).count ≠ capacity s.cfg .rx ∧ (s.ring .rx).tail = capacity s.cfg .rx - 1 ∧
    RingOk (capacity s.cfg .rx) (s.ring .rx) :=
  ⟨.inl ⟨.rxc, by decide, rfl⟩, by decide, rfl, .of_check rfl⟩

/-- P0 with unbuffered transmit. -/
def unbuffered : State := State.resetWith { Params.p0 with nTx := 0 }

theorem witness_RbPush_none :
    RingReady ringHandlers unbuffered ∧ capacity unbuffered.cfg .tx = 0 ∧
    RingOk (capacity unbuffered.cfg .tx) (unbuffered.ring .tx) :=
  ⟨.inr ⟨⟨rfl, rfl⟩, rfl⟩, rfl, .of_check rfl⟩

theorem witness_RbPopTop_empty : RingReady ringHandlers (base []) ∧ ((base []).ring .rx).count = 0 :=
  ⟨.inr ⟨⟨rfl, rfl⟩, rfl⟩, rfl⟩

theorem witness_RbPopTop_one :
    let s := rings [] [0x42] (inside .dre)
    RingReady ringHandlers s ∧ (s.ring .tx).count = 1 ∧ RingOk (capacity s.cfg .tx) (s.ring .tx) :=
  ⟨.inl ⟨.dre, by decide, rfl⟩, rfl, .of_check rfl⟩

theorem witness_RbQueries :
    RingReady ringHandlers fullTx ∧ RingOk (capacity fullTx.cfg .tx) (fullTx.ring .tx) ∧
    RingReady ringHandlers (inside .rxc) ∧ RingReady ringHandlers unbuffered ∧
    RingOk (capacity unbuffered.cfg .tx) (unbuffered.ring .tx) ∧ capacity unbuffered.cfg .tx = 0 :=
  ⟨.inr ⟨⟨rfl, rfl⟩, rfl⟩, .of_check rfl, .inl ⟨.rxc, by decide, rfl⟩, .inr ⟨⟨rfl, rfl⟩, rfl⟩, .of_check rfl, rfl⟩

theorem witness_RingRefusals_dre :
    let s := serving { base [] with hw := { (base []).hw with dreIe := true } }
    Ready s ∧ s.cpu.gie = true ∧ s.hw.dreIe = true := ⟨⟨rfl, rfl⟩, rfl, rfl⟩

/-- P0 with the receive interrupt. -/
def withRxIrq : State := State.resetWith { Params.p0 with rxIrq := true }

theorem witness_RingRefusals_rxc :
    Ready (serving withRxIrq) ∧ (serving withRxIrq).cpu.gie = true ∧ (serving withRxIrq).cfg.rxIrq = true :=
  ⟨⟨rfl, rfl⟩, rfl, rfl⟩

theorem witness_RingRefusals_tov :
    (inside .tov).cpu.handler = some .tov ∧ Instr.rbSize .tx ∈ [Instr.rbPush .tx 0, .rbPop .tx, .rbTop .tx, .rbEmpty .tx,
      .rbFull .tx, .rbSize .tx, .btfCheck 0] := by decide

theorem witness_WideTimeLayout :
    255 < 2 ^ Params.p0.wOvf ∧ 255 < 2 ^ Params.p0.wCnt ∧ Params.p0.wCnt = 8 ∧
    ({ Params.p0 with wCnt := 16 } : Params).wCnt = 16 := by decide

theorem witness_ClkProcess : (inside .tov).cpu.handler = some .tov ∧ (inside .rxc).cpu.handler ≠ some .tov ∧
    (base []).cpu.handler ≠ some .tov := by decide

/-- The counter at 254 ticks to 255, the last value before a wrap. -/
def lastTick : State := clockAt 0xFF 254 (base [tickGap 0, tickGap 1, [], []])

theorem reading_lastTick : Reading 0 1 [] lastTick := ⟨⟨rfl, rfl⟩, rfl, .inl rfl, by decide, by decide⟩

theorem witness_ClkNow : Reading 0 1 [] lastTick := reading_lastTick

/-- P0 with a clock that accepts equal samples. -/
def accepting : State := { State.resetWith { Params.p0 with retryOnEqual := false } with env := [[], [], [], []] }

theorem witness_ClkNow_equal : Reading 0 0 [] accepting :=
  ⟨⟨rfl, rfl⟩, rfl, .inl rfl, by decide, by decide⟩

theorem witness_ClkNow_retry :
    let s := base ([] :: [] :: [] :: [] :: oneTick)
    s.env = [] :: (tallyGaps s.cfg ++ [] :: [] :: [] :: oneTick) ∧ Reading 1 0 [] { s with env := oneTick } ∧
    s.cfg.retryOnEqual = true :=
  ⟨rfl, ⟨⟨rfl, rfl⟩, rfl, .inl rfl, by decide, by decide⟩, rfl⟩

/-- P0 with a tally of 16 bits, read in two parts. -/
def twoParts : State :=
  { State.resetWith { Params.p0 with wOvf := 16 } with env := [tickGap 1, [], tickGap 0, [], []] }

theorem witness_ClkNow_parts : tallyParts twoParts.cfg = 2 ∧ Reading 1 0 [] twoParts :=
  ⟨by decide, ⟨rfl, rfl⟩, rfl, .inl rfl, by decide, by decide⟩

theorem fewTicks_oneTick : FewTicks 2 256 oneTick := by
  intro i
  match i with
  | 0 => decide
  | 1 => decide
  | 2 => decide
  | 3 => decide
  | i + 4 => simp [oneTick]

theorem witness_ClkGuarantee :
    let s := serving { clockAt 0x01 0xFE (base oneTick) with ticks := 0x1FE }
    s.cfg.valid = true ∧ Ready s ∧ s.cpu.gie = true ∧ s.requests = [] ∧ Synced s ∧
    NoReset s.env ∧ FewTicks (tallyParts s.cfg + 1) (2 ^ s.cfg.wCnt) s.env ∧ ∃ t, exec .clkNow s = .next t ∧ t.fg = .idle :=
  ⟨by decide, ⟨rfl, rfl⟩, rfl, rfl, ⟨rfl, rfl, rfl⟩, by decide, fewTicks_oneTick, _, rfl, rfl⟩

theorem readsClock_lastTick : ∃ v t, ReadsClock lastTick v t := ⟨0xFFFF, _, rfl, rfl, rfl⟩

theorem witness_DlNew : 1 < lastTick.dl.length ∧ (∃ v t, ReadsClock lastTick v t) ∧ Reading 0 1 [] lastTick ∧
    (inside .rxc).cpu.handler ≠ none ∧ lastTick.cfg.valid = true :=
  ⟨by decide, readsClock_lastTick, reading_lastTick, by decide, by decide⟩

/-- `lastTick` with deadline 0 and stopwatch 0 constructed. -/
def timedTick (c : Bool) : State := timed 100 65535 c lastTick

theorem reading_timedTick (c : Bool) : Reading 0 1 [] (timedTick c) :=
  ⟨⟨rfl, rfl⟩, by cases c <;> rfl, .inl rfl, by cases c <;> decide, by cases c <;> decide⟩

theorem readsClock_timedTick (c : Bool) : ∃ v t, ReadsClock (timedTick c) v t := by
  cases c <;> exact ⟨0xFFFF, _, rfl, rfl, rfl⟩

theorem witness_DlElapsed_unmade :
    (base []).dl[1]? = some Deadline.unmade ∧ Ready (base []) ∧ Deadline.unmade.made = false := ⟨rfl, ⟨rfl, rfl⟩, rfl⟩

theorem witness_DlElapsed_cancelled :
    (timedTick true).dl[0]? = some ⟨100, 65535, true, true⟩ ∧ Ready (timedTick true) := ⟨rfl, rfl, rfl⟩

theorem witness_DlElapsed_armed :
    (timedTick false).dl[0]? = some ⟨100, 65535, false, true⟩ ∧ (∃ v t, ReadsClock (timedTick false) v t) ∧
    Reading 0 1 [] (timedTick false) := ⟨rfl, readsClock_timedTick false, reading_timedTick false⟩

theorem witness_DlRestart :
    (timedTick true).dl[0]? = some ⟨100, 65535, true, true⟩ ∧ (∃ v t, ReadsClock (timedTick true) v t) ∧
    Reading 0 1 [] (timedTick true) ∧ (timed 1 2 true (inside .dre)).dl[0]? = some ⟨1, 2, true, true⟩ ∧
    (timed 1 2 true (inside .dre)).cpu.handler ≠ none ∧ (base []).dl[1]? = some Deadline.unmade ∧ Ready (base []) ∧
    Deadline.unmade.made = false :=
  ⟨rfl, readsClock_timedTick true, reading_timedTick true, rfl, by decide, rfl, ⟨rfl, rfl⟩, rfl⟩

theorem witness_DlCancel :
    (timedTick true).dl[0]? = some ⟨100, 65535, true, true⟩ ∧ Ready (timedTick true) ∧
    rearms 0 (.dlNew 1 5) = false ∧ NoReset (timedTick true).env ∧ ∃ t, exec (.dlNew 1 5) (timedTick true) = .next t :=
  ⟨rfl, ⟨rfl, rfl⟩, rfl, by decide, _, rfl⟩

theorem witness_SwNew : 0 < lastTick.sw.length ∧ (∃ v t, ReadsClock lastTick v t) ∧ Reading 0 1 [] lastTick ∧
    (inside .tov).cpu.handler ≠ none :=
  ⟨by decide, readsClock_lastTick, reading_lastTick, by decide⟩

theorem witness_SwElapsedTime :
    (timedTick false).sw[0]? = some ⟨100, true⟩ ∧ (∃ v t, ReadsClock (timedTick false) v t) ∧
    Reading 0 1 [] (timedTick false) ∧ (base []).sw[0]? = some Stopwatch.unmade ∧ Ready (base []) :=
  ⟨rfl, readsClock_timedTick false, reading_timedTick false, rfl, rfl, rfl⟩

theorem witness_ElapsedWindow : 65535 < 2 ^ Params.p0.wTime := by decide

theorem witness_BtfCheck :
    let s := { base [] with sp := { (base []).sp with progress := 2 } }
    RingReady [.rxc] s ∧ s.cfg.matcherRetries = false ∧ s.sp.progress < s.cfg.bootSeq.length ∧
    s.cfg.bootSeq[s.sp.progress]? = some 0xA3 ∧ RingReady [.rxc] (inside .rxc) :=
  ⟨.inr ⟨⟨rfl, rfl⟩, rfl⟩, rfl, by decide, rfl, .inl ⟨.rxc, by decide, rfl⟩⟩

/-- A byte that does not match: the progress goes to 0, which is no full match. -/
theorem witness_BtfCheck_mismatch :
    let s := { base [] with sp := { (base []).sp with progress := 2 } }
    RingReady [.rxc] s ∧ s.cfg.matcherRetries = false ∧ s.sp.progress < s.cfg.bootSeq.length ∧
    s.cfg.bootSeq[s.sp.progress]? ≠ some 0x31 ∧ 0 ≠ s.cfg.bootSeq.length :=
  ⟨.inr ⟨⟨rfl, rfl⟩, rfl⟩, rfl, by decide, by decide, by decide⟩

theorem witness_BootSequence : (base []).sp.progress = 0 ∧ (base []).cfg.bootSeq ≠ [] := ⟨rfl, by decide⟩

theorem witness_SpInit :
    Ready (base []) ∧ (base []).sp.inited = false ∧ (1 : BitVec 32) ≠ 0 ∧
    ({ base [] with sp := { (base []).sp with inited := true } } : State).sp.inited = true :=
  ⟨⟨rfl, rfl⟩, rfl, by decide, rfl⟩

theorem witness_SpQueries : Ready fullTx ∧ RingOk unbuffered.cfg.nTx unbuffered.sp.tx ∧ unbuffered.cfg.nTx = 0 :=
  ⟨⟨rfl, rfl⟩, .of_check rfl, rfl⟩

theorem witness_SpRead :
    Alone (rings [0x41] [] (base [])) ∧ (rings [0x41] [] (base [])).sp.rx.count ≠ 0 ∧
    Alone (frame 0x31 false false (base [])) ∧ (frame 0x31 false false (base [])).requests = [] ∧
    RingOk (frame 0x31 false false (base [])).cfg.nRx (frame 0x31 false false (base [])).sp.rx ∧
    Alone (base []) ∧ (base []).hw.rxFrame = none ∧ (base []).requests = [] ∧
    Alone (frame 0x31 true true (base [])) ∧ (frame 0x31 true true (base [])).requests = [] :=
  ⟨⟨⟨rfl, rfl⟩, rfl, .inr rfl⟩, by decide, ⟨⟨rfl, rfl⟩, rfl, .inr rfl⟩, rfl, .of_check rfl, ⟨⟨rfl, rfl⟩, rfl, .inr rfl⟩,
    rfl, rfl, ⟨⟨rfl, rfl⟩, rfl, .inr rfl⟩, rfl⟩

/-- A request that `cpu.gie = 0` holds back, an empty RX ring, and no frame or a good one. -/
theorem witness_SpRead_masked :
    let s := rings [] [0x41] { base [] with hw := { (base []).hw with dreIe := true } }
    let v (s : State) := serveAll { processRx s with cpu := { gie := true, handler := none }, fg := Fg.rd1 }
    Alone s ∧ s.requests = [.dre] ∧ s.sp.rx.count = 0 ∧ (v s).sp.rx.count = 0 ∧
    Alone (frame 0x31 false false s) ∧ (v (frame 0x31 false false s)).sp.rx.count ≠ 0 :=
  ⟨⟨⟨rfl, rfl⟩, rfl, .inl rfl⟩, by decide, rfl, by decide, ⟨⟨rfl, rfl⟩, rfl, .inl rfl⟩, by decide⟩

theorem witness_SpWrite :
    Alone (rings [] [0x41] (base [])) ∧ (rings [] [0x41] (base [])).sp.tx.count < (base []).cfg.nTx ∧
    Alone fullTx ∧ fullTx.sp.tx.count = fullTx.cfg.nTx ∧ fullTx.hw.txEmpty = true ∧
    Alone unbuffered ∧ unbuffered.cfg.nTx = 0 ∧ unbuffered.hw.txEmpty = true ∧
    Alone (sending fullTx) ∧ (sending fullTx).hw.txEmpty = false ∧
    Alone (sending unbuffered) ∧ (sending unbuffered).cfg.nTx = 0 ∧ (sending unbuffered).hw.txEmpty = false :=
  ⟨⟨⟨rfl, rfl⟩, rfl, .inr rfl⟩, by decide, ⟨⟨rfl, rfl⟩, rfl, .inr rfl⟩, rfl, rfl, ⟨⟨rfl, rfl⟩, rfl, .inr rfl⟩, rfl, rfl,
    ⟨⟨rfl, rfl⟩, rfl, .inr rfl⟩, rfl, ⟨⟨rfl, rfl⟩, rfl, .inr rfl⟩, rfl, rfl⟩

/-- A full TX ring and a schedule in which the transmitter becomes ready after each byte. -/
def flushing : State := rings [] [0x41, 0x42] (base [[], [.event .txDone], [], [.event .txDone], []])

theorem witness_SpFlush :
    Ready (serving flushing) ∧ (serving flushing).cpu.gie = true ∧ Undisturbed (serving flushing) ∧
    (serving flushing).hw.txEmpty = true ∧ RingOk flushing.cfg.nTx flushing.sp.tx ∧ flushing.sp.tx.count ≠ 0 ∧
    flushing.env = (List.replicate flushing.sp.tx.count [[], [Move.event .txDone]]).flatten ++ [[]] ∧
    Ready (base []) ∧ (base []).sp.tx.count = 0 ∧ Ready (sending fullTx) ∧ (sending fullTx).env = [] ∧
    Undisturbed (sending fullTx) ∧ (sending fullTx).sp.tx.count ≠ 0 ∧ (sending fullTx).hw.txEmpty = false :=
  ⟨⟨rfl, rfl⟩, rfl, .inr rfl, rfl, .of_check rfl, by decide, rfl, ⟨rfl, rfl⟩, rfl, ⟨rfl, rfl⟩, rfl, .inl rfl, by decide,
    rfl⟩

theorem witness_SpReceive :
    let s := frame 0x31 true false (rings [1, 2, 3, 4] [] { inside .rxc with sp := { (inside .rxc).sp with loss := 255 } })
    s.hw.rxFrame = some ⟨0x31, true, false⟩ ∧ FitsWidth s.cfg.wLoss s.sp.loss ∧ s.cpu.handler = some .rxc :=
  ⟨rfl, by decide, rfl⟩

theorem witness_SpReceive_poll :
    (frame 0x31 true true (base [])).hw.rxFrame = some ⟨0x31, true, true⟩ ∧
    FitsWidth (base []).cfg.wLoss (base []).sp.loss ∧ Ready (frame 0x31 true true (base [])) ∧
    (base []).hw.rxFrame = none ∧ Ready (base []) ∧ (inside .rxc).hw.rxFrame = none ∧
    (inside .rxc).cpu.handler = some .rxc :=
  ⟨rfl, by decide, ⟨rfl, rfl⟩, rfl, ⟨rfl, rfl⟩, rfl, rfl⟩

theorem witness_SpTransmit :
    Ready fullTx ∧ fullTx.sp.tx.count ≠ 0 ∧ fullTx.hw.txEmpty = true ∧ (base []).sp.tx.count = 0 ∧
    (sending fullTx).hw.txEmpty = false ∧ (rings [] [0x41] (inside .dre)).cpu.handler = some .dre ∧
    (rings [] [0x41] (inside .dre)).sp.tx.count = 1 ∧ (sending (rings [] [0x41] (inside .dre))).hw.txEmpty = false ∧
    (inside .dre).sp.tx.count = 0 := by
  refine ⟨⟨rfl, rfl⟩, by decide, rfl, rfl, rfl, rfl, rfl, rfl, rfl⟩

theorem witness_SpLoss :
    Ready lossy ∧ (∃ t, exec .spClearOverflow lossy = .next t) ∧
    (frame 0x31 false true (inside .rxc)).cpu.handler = some .rxc ∧
    (frame 0x31 false true (inside .rxc)).hw.rxFrame = some ⟨0x31, false, true⟩ ∧
    (∃ t, exec .spIntrRx (frame 0x31 false true (inside .rxc)) = .next t) ∧
    Ready (frame 0x31 true false lossy) ∧ (frame 0x31 true false lossy).hw.rxFrame = some ⟨0x31, true, false⟩ ∧
    FitsWidth lossy.cfg.wLoss lossy.sp.loss ∧ ∃ t, exec .spProcessRx (frame 0x31 false true lossy) = .next t :=
  ⟨⟨rfl, rfl⟩, ⟨_, rfl⟩, rfl, rfl, ⟨_, rfl⟩, ⟨rfl, rfl⟩, rfl, by decide, _, rfl⟩

theorem witness_ReceiveStream :
    RingOk (rings [1, 2, 3] [] (base [])).cfg.nRx (rings [1, 2, 3] [] (base [])).sp.rx ∧
    FitsWidth (base []).cfg.wLoss 255 := ⟨.of_check rfl, by decide⟩

theorem witness_TransmitOrder :
    Inv fullTx ∧ NoReset fullTx.env ∧ (∃ t, exec (.spWrite 0x43) fullTx = .next t ∧ t.fg = .idle) ∧
    ∃ t, exec .pump fullTx = .next t :=
  ⟨.of_check (by decide) trivial, by decide, ⟨_, rfl, rfl⟩, _, rfl⟩

theorem witness_TransmitOrder_loop :
    let s := { sending fullTx with fg := .w3 0x43 }
    (∃ t, exec (.spWrite 0x43) (sending fullTx) = .next t ∧ t.fg ≠ .idle) ∧ Inv s ∧ NoReset s.env ∧
    (∃ t, step s = .next t) ∧ s.cpu.handler = none ∧ chooseIrq s = none ∧ fetch s = .goOn ∧ s.toSend = [0x43] :=
  ⟨⟨_, rfl, by decide⟩, .of_check (by decide) (show (2 : Nat) ≠ 0 by decide), by decide, ⟨_, rfl⟩, rfl, rfl, rfl, rfl⟩

theorem witness_TransmitOrder_handler :
    let s := rings [] [0x41] { inside .dre with hw := { (inside .dre).hw with dreIe := true } }
    let u := serving (overflowed (base []))
    Inv s ∧ (∃ t, step s = .next t) ∧ s.cpu.handler ≠ none ∧ NoReset s.env ∧
    Inv u ∧ (∃ t, step u = .next t) ∧ chooseIrq u ≠ none ∧ NoReset u.env :=
  ⟨.of_check (by decide) trivial, ⟨_, rfl⟩, by decide, by decide, .of_check (by decide) trivial, ⟨_, rfl⟩, by decide,
    by decide⟩

theorem witness_AdcProcess :
    Ready (scanning 1 true true) ∧ (scanning 1 true true).adc.inProgress = true ∧
    (scanning 1 true true).hw.adcReady = true ∧ (scanning 1 false true).adc.inProgress = false ∧
    (scanning 1 true false).hw.adcReady = false := ⟨⟨rfl, rfl⟩, rfl, rfl, rfl, rfl⟩

theorem witness_AdcStartNext :
    Ready (scanning 2 false true) ∧ (scanning 2 false true).adc.inProgress = false ∧
    (scanning 2 false true).cfg.channels[2]? = some ⟨2, false⟩ ∧ (scanning 2 false true).cfg.channels[0]? = some ⟨0, false⟩ ∧
    (scanning 2 false true).adc.cur + 1 = (scanning 2 false true).cfg.channels.length ∧
    (scanning 2 true true).adc.inProgress = true := ⟨⟨rfl, rfl⟩, rfl, rfl, rfl, rfl, rfl⟩

theorem witness_AdcValues :
    Ready (scanning 2 false false) ∧ (scanning 2 false false).adc.latest[2]? = some 0x3FF ∧
    (scanning 2 false false).adc.valid[2]? = some true ∧ (scanning 2 false false).adc.cur = 2 ∧
    (scanning 1 false false).adc.latest[1]? = some 0x010 ∧ (scanning 1 false false).adc.valid[1]? = some false :=
  ⟨⟨rfl, rfl⟩, rfl, rfl, rfl, rfl, rfl⟩

theorem witness_CfPushData_idle :
    Ready lastTick ∧ lastTick.cf.st = .idle ∧ (0x31 : Byte) ≠ lastTick.cfg.extMarker ∧ lastTick.cfg.extMarker = 0x80 ∧
    (∃ v t, ReadsClock lastTick v t) ∧ Reading 0 1 [] lastTick :=
  ⟨⟨rfl, rfl⟩, rfl, by decide, rfl, readsClock_lastTick, reading_lastTick⟩

/-- The framer waits since clock 0 and the reading gives clock 100 (in time) or 101 (late). -/
def pushing (cnt : Nat) : State := awaiting (clockAt 0 cnt (base oneTick))

theorem witness_CfPushData_awaiting :
    (pushing 99).cf.st = .awaitingPayload ∧ (∃ t, ReadsClock (pushing 99) 100 t) ∧
    decide ((pushing 99).cfg.payloadTimeout < subMod (pushing 99).cfg.wTime 100 (pushing 99).cf.deadline.base) = false ∧
    (∃ t, ReadsClock (pushing 100) 101 t) ∧
    decide ((pushing 100).cfg.payloadTimeout < subMod (pushing 100).cfg.wTime 101 (pushing 100).cf.deadline.base) = true ∧
    Reading 1 0 [] (pushing 99) :=
  ⟨rfl, ⟨_, rfl, rfl, rfl⟩, rfl, ⟨_, rfl, rfl, rfl⟩, rfl,
    ⟨⟨rfl, rfl⟩, rfl, .inl rfl, by decide, by decide⟩⟩

/-- A marker now, and a second byte `p` ticks later. -/
def markerThen (p : Nat) : State := base [tickGap 1, tickGap 0, [], [], tickGap p, tickGap 0, [], []]

theorem witness_CfBoundary_inTime :
    (markerThen 100).cf.st = .idle ∧ Reading 1 0 [tickGap 100, tickGap 0, [], []] (markerThen 100) ∧
    (markerThen 100).cfg.valid = true ∧ 100 + 0 ≤ (markerThen 100).cfg.payloadTimeout ∧
    ∃ t, exec (.cfPushData (markerThen 100).cfg.extMarker) (markerThen 100) = .next t ∧ Reading 100 0 [] t :=
  ⟨rfl, ⟨⟨rfl, rfl⟩, rfl, .inl rfl, by decide, by decide⟩, by decide, by decide, _, rfl,
    ⟨⟨rfl, rfl⟩, rfl, .inl rfl, by decide, by decide⟩⟩

theorem witness_CfBoundary_late :
    (markerThen 101).cf.st = .idle ∧ Reading 1 0 [tickGap 101, tickGap 0, [], []] (markerThen 101) ∧
    (markerThen 101).cfg.payloadTimeout < 101 + 0 ∧
    ∃ t, exec (.cfPushData (markerThen 101).cfg.extMarker) (markerThen 101) = .next t ∧ Reading 101 0 [] t :=
  ⟨rfl, ⟨⟨rfl, rfl⟩, rfl, .inl rfl, by decide, by decide⟩, by decide, _, rfl,
    ⟨⟨rfl, rfl⟩, rfl, .inl rfl, by decide, by decide⟩⟩

theorem witness_CfPayload : Ready loaded ∧ loaded.cf.ready = true ∧ Ready (base []) ∧ (base []).cf.ready = false :=
  ⟨⟨rfl, rfl⟩, rfl, ⟨rfl, rfl⟩, rfl⟩

/-- A sequence is running, and a reading follows a quiet gap. -/
def rearming : State := blinking { lastTick with env := [] :: lastTick.env }

theorem witness_BlSignal :
    Ready rearming ∧ rearming.env = [] :: lastTick.env ∧ Move.reset ∉ ([] : List Move) ∧
    (∃ v t, ReadsClock (gap [] { rearming with env := lastTick.env }) v t) ∧
    Reading 0 1 [] { rearming with env := lastTick.env } ∧ NoReset rearming.env ∧
    ∃ t, exec (.blSignal 0 5 5) rearming = .next t ∧ t.fg = .idle :=
  ⟨⟨rfl, rfl⟩, rfl, by decide, ⟨0xFFFF, _, rfl, rfl, rfl⟩, ⟨⟨rfl, rfl⟩, rfl, .inl rfl, by decide, by decide⟩, by decide, _,
    rfl, rfl⟩

/-- The last pulse of a sequence is on. -/
def lastPulse : State := { lastTick with bl := ⟨1, 4000, 3000, true, 1000, .high⟩ }

theorem witness_BlProcess :
    Ready (base []) ∧ (base []).bl.remaining = 0 ∧ lastPulse.bl.remaining ≠ 0 ∧ (∃ v t, ReadsClock lastPulse v t) ∧
    Reading 0 1 [] lastPulse ∧ NoReset lastPulse.env ∧ ∃ t, exec .blProcess lastPulse = .next t ∧ t.fg = .idle ∧ t.bl.remaining = 0 :=
  ⟨⟨rfl, rfl⟩, rfl, by decide, ⟨0xFFFF, _, rfl, rfl, rfl⟩,
    ⟨⟨rfl, rfl⟩, rfl, .inl rfl, by decide, by decide⟩, by decide, _, rfl, rfl, rfl⟩

theorem witness_Pump_order :
    let s := State.resetWith { Params.p0 with pumpOrder := [.blink, .adc, .serial] }
    s.cfg.valid = true ∧ Alone s ∧ s.bl.remaining = 0 :=
  ⟨by decide, ⟨⟨rfl, rfl⟩, rfl, .inr rfl⟩, rfl⟩

theorem witness_Pump_blink :
    let s := blinking (clockAt 19 136 (base ([] :: [] :: [] :: oneTick)))
    s.cfg.valid = true ∧ s.cfg.pumpOrder = [.serial, .adc] ++ .blink :: [] ∧ s.bl.remaining ≠ 0 ∧
    s.env = pumpGaps [.serial, .adc] s ++ tickGap 1 :: (tallyGaps s.cfg ++ tickGap 0 :: [] :: [] :: (pumpGaps [] s ++ [])) ∧
    Reading 1 0 [] { s with env := tickGap 1 :: (tallyGaps s.cfg ++ [tickGap 0, [], []]) } :=
  ⟨by decide, rfl, by decide, rfl, ⟨⟨rfl, rfl⟩, rfl, .inl rfl, by decide, by decide⟩⟩

/-- Another order, and a conversion to report after the blink step. -/
theorem witness_Pump_blink_first :
    let c : State := clockAt 19 136 (blinking (scanning 1 true true))
    let s := { c with cfg := { c.cfg with pumpOrder := [.blink, .adc, .serial] },
                      env := oneTick ++ [[], [], [], [], []] }
    s.cfg.valid = true ∧ s.cfg.pumpOrder = [] ++ .blink :: [.adc, .serial] ∧ s.bl.remaining ≠ 0 ∧
    s.sampleReady = true ∧
    s.env = pumpGaps [] s ++ tickGap 1 :: (tallyGaps s.cfg ++ tickGap 0 :: [] :: [] :: (pumpGaps [.adc, .serial] s ++ [[]])) ∧
    Reading 1 0 [[]] { s with env := tickGap 1 :: (tallyGaps s.cfg ++ tickGap 0 :: [] :: [] :: [[]]) } :=
  ⟨by decide, rfl, by decide, rfl, rfl, ⟨⟨rfl, rfl⟩, rfl, .inr rfl, by decide, by decide⟩⟩

theorem witness_Wait :
    let s := base [tickGap 1, tickGap 0, [], [], tickGap 0, tickGap 2, tickGap 1, [], []]
    Ready s ∧ Undisturbed s ∧ s.cfg.valid = true ∧
    s.env = tickGap 1 :: (tallyGaps s.cfg ++ tickGap 0 :: [] :: [] :: tickGap 0 :: tickGap 2 ::
      (tallyGaps s.cfg ++ [tickGap 1, [], []])) ∧
    s.hw.cnt + (1 + 0 + 0 + 2 + 1) < 2 ^ s.cfg.wCnt ∧ 0 < 1 + 0 ∧ 0 < 2 + 1 ∧ 2 < 0 + 2 + 1 ∧ 0 + 2 + 1 ≤ 3 ∧
    s.bl.remaining = 0 ∧ ∃ t, exec (.wait 3) s = .next t :=
  ⟨⟨rfl, rfl⟩, .inl rfl, by decide, rfl, by decide, by decide, by decide, by decide, by decide, rfl, _, rfl⟩

theorem witness_InterruptControl : Ready (serving (base [])) ∧ Ready (base []) := ⟨⟨rfl, rfl⟩, rfl, rfl⟩

theorem witness_EnvTick :
    (clockAt 0 255 (base [])).mayTake = false ∧ (clockAt 0 255 (base [])).hw.cnt < 2 ^ (base []).cfg.wCnt ∧
    (serving (base [])).cfg.valid = true ∧ (serving (base [])).mayTake = true ∧ Synced (serving (base [])) :=
  ⟨rfl, by decide, by decide, rfl, ⟨rfl, rfl, rfl⟩⟩

theorem witness_EnvEvents :
    (base []).hw.rxFrame = none ∧ (frame 0 false false (base [])).hw.rxFrame ≠ none ∧
    (sending (base [])).hw.txEmpty = false ∧ (base []).hw.txEmpty = true ∧ (scanning 1 true false).hw.adcBusy ≠ none ∧
    1023 < 2 ^ (scanning 1 true false).cfg.wAdc ∧ (base []).hw.adcBusy = none := by decide

theorem witness_EnvReset : (inside .rxc).cfg.valid = true := by decide

/-- HOST resets the block in the gap that comes next, after a tick there and before another. -/
def resetting (s : State) : State := { s with env := [[.event .tick, .reset, .event .tick]] }

theorem witness_EnvReset_places :
    let s := { base [] with fg := .w5, issue := [0xEF, 0xA1] }
    let r := resetting (inside .dre)
    let q := resetting (serving (overflowed (base [])))
    s.issue = 0xEF :: [0xA1] ∧ s.cpu.handler = none ∧ chooseIrq s = none ∧
    r.env = ([Move.event .tick] ++ .reset :: [.event .tick]) :: [] ∧ r.cpu.handler ≠ none ∧
    q.env = ([Move.event .tick] ++ .reset :: [.event .tick]) :: [] ∧ chooseIrq q ≠ none := by decide

theorem witness_EnvReset_inside :
    ∃ u, fgStep { resetting (base []) with fg := .f1, sp := fullTx.sp } = .next u ∧ u.fg ≠ .idle ∧
    u.env = ([Move.event .tick] ++ .reset :: [.event .tick]) :: [] :=
  ⟨_, rfl, by decide, rfl⟩

theorem witness_InterruptService :
    (serving (overflowed (base []))).cpu.gie = true ∧ (serving (overflowed (base []))).cpu.handler = none ∧
    (overflowed (base [])).cpu.gie = false ∧ Move.reset ∉ tickGap 2 ∧ (overflowed (base [])).request .tov = true := by decide

theorem witness_WrongContext :
    foregroundOnly .sei = true ∧ (inside .tov).cpu.handler ≠ none ∧ handlerOf .spIntrRx = some .rxc ∧
    (base []).cpu.handler ≠ some .rxc := by decide

theorem witness_Owners :
    NoReset (base []).env ∧ (∃ t, exec .spRead (rings [0x41] [] (base [])) = .next t) ∧ writesFramer .spRead = false ∧
    writesDeadlines .spRead = false ∧ writesStopwatches .spRead = false ∧ writesScanner .spRead = false ∧
    writesBlinker .spRead = false := ⟨by decide, ⟨_, rfl⟩, rfl, rfl, rfl, rfl, rfl⟩

theorem witness_HistoriesGrow : ∃ t, step (issuing [0xEF]) = .next t := ⟨_, rfl⟩

end Sys2Proof.Tests
end

section
/-! SUPPORT. The step on an issued word (R2, R91): what is fetched, and what a step does with it. -/

namespace Sys2Proof.Machine

/-! ### The step on an issued word -/

/-- R91, R68: the bytes at the head of the issue list are performed between operations, and an environment event wherever
the foreground stands. -/
theorem fetch_perform {s : State} {i : Instr} {rest : List Byte} (hd : decode s.cfg s.issue = .ok (i, rest))
    (hi : s.fg = .idle ∨ i.isEnv = true) : fetch s = .perform i rest := by
  have hidle : (s.fg.isIdle || i.isEnv) = true := by
    obtain h | h := hi <;> simp [h, Fg.isIdle]
  cases hb : s.issue with
  | nil => simp [hb, decode] at hd
  | cons b bs =>
    rw [hb] at hd
    simp [fetch, hb, hd, hidle]

/-- With no handler running and none to take, a step does what is fetched (R2). -/
theorem step_perform {s : State} {i : Instr} {rest : List Byte} (hh : s.cpu.handler = none) (hc : chooseIrq s = none)
    (hf : fetch s = .perform i rest) : step s = exec i { s with issue := rest } := by
  simp [step, hh, hc, hf]

/-- Settles O6: the word at the head of the issue list is what the step fetches. -/
theorem stepRunsIssued : Obligations.StepRunsIssued := by
  unfold Obligations.StepRunsIssued
  intro s i rest hh hc hd hi
  exact step_perform hh hc (fetch_perform hd hi)

end Sys2Proof.Machine
end

section
/-! SUPPORT. Histories (R6, R49, R261, R300): no move of the block, of its environment or of HOST changes the parameters or
takes anything from a history. -/

namespace Sys2Proof.Machine

/-! ### What an answer ensures -/

/-- The state that an answer gives meets `P`, if it gives one. -/
def Ensures (P : State → Prop) : Answer → Prop
  | .next t => P t
  | .fault _ => True
  | .refused _ => True

theorem ensures_iff (P : State → Prop) (a : Answer) : Ensures P a ↔ ∀ t, a = .next t → P t := by
  cases a <;> simp [Ensures]

/-- The context check of R281 gives no state of its own. -/
theorem inForeground_ensures {P : State → Prop} {s : State} {a : Answer} (h : Ensures P a) :
    Ensures P (inForeground s a) :=
  (ensures_iff P _).2 fun t e => (ensures_iff P a).1 h t (inForeground_next e).2.2

/-- The context check of a handler's body gives no state of its own (R281). -/
theorem inHandler_ensures {P : State → Prop} {x : Handler} {s : State} {a : Answer} (h : Ensures P a) :
    Ensures P (inHandler x s a) :=
  (ensures_iff P _).2 fun t e => (ensures_iff P a).1 h t (inHandler_next e).2

/-- The context check of a ring operation gives no state of its own (R281, R129). -/
theorem inRingContext_ensures {P : State → Prop} {hs : List Handler} {s : State} {a : Answer} (h : Ensures P a) :
    Ensures P (inRingContext hs s a) :=
  (ensures_iff P _).2 fun t e => (ensures_iff P a).1 h t (inRingContext_next e).1

/-! ### The receive handler -/

/-- What `intr_rx()` does before it looks at the byte (R185): the frame is consumed, an overflow is counted. -/
def takeFrame (f : Frame) (s : State) : State :=
  let s1 := { s with hw := { s.hw with rxFrame := none } }
  if f.ovf then countLoss .rxHardwareOverflow s1 else s1

theorem takeFrame_cases (f : Frame) (s : State) :
    (f.ovf = true ∧ takeFrame f s = countLoss .rxHardwareOverflow { s with hw := { s.hw with rxFrame := none } }) ∨
    (f.ovf = false ∧ takeFrame f s = { s with hw := { s.hw with rxFrame := none } }) := by
  cases h : f.ovf <;> simp [takeFrame, h]

/-- R185: after the frame is taken, the byte is discarded or buffered. -/
theorem intrRx_eq (f : Frame) (s : State) : intrRx f s =
    if f.fe then { raise .framingError (takeFrame f s) with isrResult := .bool false }
    else { bufferByte f.data (takeFrame f s) with isrResult := .bool true } := rfl

/-- R185 in two cases. -/
theorem intrRx_cases (f : Frame) (s : State) :
    (f.fe = true ∧ intrRx f s = { raise .framingError (takeFrame f s) with isrResult := .bool false }) ∨
    (f.fe = false ∧ intrRx f s = { bufferByte f.data (takeFrame f s) with isrResult := .bool true }) := by
  rw [intrRx_eq]
  cases f.fe <;> simp

/-! ### Growing histories -/

/-- `t` keeps the parameters of `s` and only appends to its histories (R6, R49, R261, R300). -/
structure Grows (s t : State) : Prop where
  cfg : t.cfg = s.cfg
  line : s.past.line ++ s.lineOut <+: t.past.line ++ t.lineOut
  conditions : s.past.conditions <+: t.past.conditions
  boots : s.past.boots + s.bootRequest ≤ t.past.boots + t.bootRequest

namespace Grows

/-- An update that writes neither the parameters nor a history. -/
theorem of_same {s t : State} (hcfg : t.cfg = s.cfg := by rfl) (hline : t.lineOut = s.lineOut := by rfl)
    (hboots : t.bootRequest = s.bootRequest := by rfl) (hpast : t.past = s.past := by rfl) : Grows s t where
  cfg := hcfg
  line := by rw [hline, hpast]
  conditions := by rw [hpast]
  boots := by rw [hboots, hpast]

theorem refl (s : State) : Grows s s := of_same

theorem trans {s t u : State} (h : Grows s t) (k : Grows t u) : Grows s u where
  cfg := k.cfg.trans h.cfg
  line := h.line.trans k.line
  conditions := h.conditions.trans k.conditions
  boots := h.boots.trans k.boots

end Grows

theorem raise_grows (c : Condition) (s : State) : Grows s (raise c s) where
  cfg := rfl
  line := List.prefix_rfl
  conditions := List.prefix_append ..
  boots := le_rfl

theorem countLoss_grows (c : Condition) (s : State) : Grows s (countLoss c s) :=
  .trans .of_same (raise_grows c _)

theorem hwSend_grows (b : Byte) (s : State) : Grows s (hwSend b s) where
  cfg := rfl
  line := by simp [← List.append_assoc]
  conditions := List.prefix_rfl
  boots := le_rfl

theorem filterByte_grows (b : Byte) (s : State) : Grows s (filterByte b s) := by
  obtain ⟨p, -, ⟨-, e⟩ | ⟨-, e⟩⟩ := filterByte_cases b s <;> rw [e]
  · exact ⟨rfl, List.prefix_rfl, List.prefix_rfl, Nat.le_succ _⟩
  · exact .of_same

theorem bufferByte_grows (b : Byte) (s : State) : Grows s (bufferByte b s) := by
  refine (filterByte_grows b s).trans ?_
  obtain ⟨-, e⟩ | ⟨-, e⟩ := bufferByte_cases b s <;> rw [e]
  · exact countLoss_grows _ _
  · exact .of_same

theorem intrRx_grows (f : Frame) (s : State) : Grows s (intrRx f s) := by
  have hframe : Grows s (takeFrame f s) := by
    obtain ⟨-, e⟩ | ⟨-, e⟩ := takeFrame_cases f s <;> rw [e]
    · exact .trans .of_same (countLoss_grows _ _)
    · exact .of_same
  refine hframe.trans ?_
  obtain ⟨-, e⟩ | ⟨-, e⟩ := intrRx_cases f s <;> rw [e]
  · exact (raise_grows .framingError _).trans .of_same
  · exact (bufferByte_grows f.data _).trans .of_same

theorem processRx_grows (s : State) : Grows s (processRx s) := by
  obtain ⟨-, e⟩ | ⟨f, -, e⟩ := processRx_cases s <;> rw [e]
  · exact .refl s
  · exact intrRx_grows f s

theorem drainOne_grows (s : State) : Grows s (drainOne s) := by
  obtain ⟨e, -⟩ | ⟨-, -, e⟩ := drainOne_cases s <;> rw [e]
  · exact .refl s
  · exact .trans .of_same (hwSend_grows _ _)

theorem intrTx_grows (s : State) : Grows s (intrTx s) := by
  refine (drainOne_grows s).trans ?_
  obtain ⟨-, e⟩ | ⟨-, e⟩ := intrTx_cases s <;> rw [e]
  · exact .of_same
  · exact .refl _

/-- The line is emptied and the boot count cleared into the histories (R300, log 9). -/
theorem hardwareReset_grows (s : State) : Grows s (hardwareReset s) where
  cfg := rfl
  line := by simp
  conditions := List.prefix_rfl
  boots := le_rfl

theorem handlerBody_grows (h : Handler) (s : State) : Grows s (handlerBody h s) := by
  cases h with
  | tov => exact .of_same
  | rxc => exact processRx_grows s
  | dre => exact intrTx_grows s

theorem runHandler_grows (h : Handler) (s : State) : Grows s (runHandler h s) :=
  have hentry : Grows s (takeIrq h s) := .of_same
  (hentry.trans (handlerBody_grows h _)).trans .of_same

theorem envEvent_grows (e : EnvEvent) (s : State) : Grows s (e.apply s) := by
  cases e <;> exact .of_same

theorem applyMoves_grows (g : List Move) (s : State) : Grows s (applyMoves g s) :=
  applyMoves_keeps (P := Grows s) (fun e u _ h => h.trans (envEvent_grows e u))
    (fun x u _ h => h.trans (runHandler_grows x u)) (fun _ u h => h.trans (hardwareReset_grows u)) (.refl s)

theorem tickMany_grows (n : Nat) (s : State) : Grows s (tickMany n s) :=
  tickMany_keeps (P := Grows s) (fun _ h => h.trans .of_same) (fun x u _ h => h.trans (runHandler_grows x u)) n (.refl s)

/-! ### Labelled steps -/

theorem pumpGoOn_grows (todo : List PumpPart) (k : AfterPump) (s : State) : Grows s (pumpGoOn todo k s) := by
  cases todo with
  | nil => cases k <;> exact .of_same
  | cons p ps => exact .of_same

theorem blinkAt_grows (t : Nat) (s : State) : Grows s (blinkAt t s) := by
  obtain e | ⟨-, e⟩ | ⟨-, e⟩ := blinkAt_cases t s <;> rw [e] <;> exact .of_same

theorem takePayload_grows (t : Nat) (b : Byte) (s : State) : Grows s (takePayload t b s) := by
  simp only [takePayload]
  split
  · exact .trans (.trans .of_same (raise_grows _ _)) .of_same
  · exact .of_same

theorem startConversion_grows (s : State) : Ensures (Grows s) (startConversion s) :=
  (ensures_iff _ _).2 fun t e => by
    obtain ⟨-, c, -, rfl⟩ := startConversion_next e
    exact .of_same

theorem startNextConversion_grows (s : State) : Ensures (Grows s) (startNextConversion s) :=
  (ensures_iff _ _).2 fun t e => by
    obtain ⟨-, c, -, rfl⟩ := startNextConversion_next e
    exact .of_same

theorem adcPoll_grows (s : State) : Grows s (adcPoll s).1 := by
  obtain ⟨-, e⟩ | ⟨-, e⟩ := adcPoll_cases s <;> rw [e] <;> exact .of_same

theorem afterNow_grows (t : Nat) (k : AfterNow) (s : State) : Ensures (Grows s) (afterNow t k s) := by
  cases k with
  | clkNow | dlNew | swNew | cfArm | blSignal | waitBase => exact Grows.of_same
  | dlElapsed d | dlRestart d =>
    simp only [afterNow]
    cases s.dl[d]? with
    | none => trivial
    | some D => exact Grows.of_same
  | swElapsed w =>
    simp only [afterNow]
    cases s.sw[w]? with
    | none => trivial
    | some W => exact Grows.of_same
  | cfPayload b => exact takePayload_grows t b s
  | blProcess => exact (blinkAt_grows t s).trans .of_same
  | pumpBlink todo k => exact (blinkAt_grows t s).trans (pumpGoOn_grows todo k _)
  | waitTest base duration =>
    simp only [afterNow]
    split
    · exact Grows.of_same
    · exact pumpGoOn_grows _ _ s

theorem nowStep_grows (ph : NowPhase) (k : AfterNow) (s : State) : Ensures (Grows s) (nowStep ph k s) := by
  cases ph with
  | n1 | n3 | n4 => exact Grows.of_same
  | n2 c1 => simp only [nowStep]; split <;> exact Grows.of_same
  | n2rest c1 o writes left =>
    simp only [nowStep, readTally]
    split
    · split <;> exact Grows.of_same
    · exact Grows.of_same
  | n5 o c2 => exact afterNow_grows _ k s

theorem pumpStep_grows (p : PumpPart) (todo : List PumpPart) (k : AfterPump) (s : State) :
    Ensures (Grows s) (pumpStep p todo k s) := by
  cases p with
  | rx => exact (processRx_grows s).trans (pumpGoOn_grows todo k _)
  | tx => exact (drainOne_grows s).trans (pumpGoOn_grows todo k _)
  | adcPoll =>
    have h := adcPoll_grows s
    simp only [pumpStep]
    split
    · next s1 e => exact Grows.trans (by simpa [e] using h) (pumpGoOn_grows _ k s1)
    · next s1 e => exact Grows.trans (by simpa [e] using h) (pumpGoOn_grows _ k s1)
  | adcNext =>
    have h := startNextConversion_grows s
    simp only [pumpStep]
    split
    · next s1 e => exact ((ensures_iff _ _).1 h s1 e).trans (pumpGoOn_grows todo k s1)
    · trivial
    · trivial
  | blink =>
    simp only [pumpStep]
    split
    · exact pumpGoOn_grows todo k s
    · exact Grows.of_same

theorem readByte_grows (s : State) : Ensures (Grows s) (readByte s) := by
  unfold readByte
  split
  · exact Grows.of_same
  · trivial

theorem fgStep_grows (s : State) : Ensures (Grows s) (fgStep s) := by
  unfold fgStep
  cases s.fg with
  | idle | rd1 | rd2a | rd2c | w1a | w2 | w4 | w5 | blArm => exact Grows.of_same
  | now ph k => exact nowStep_grows ph k s
  | rd2b => exact (processRx_grows s).trans .of_same
  | rd3 => exact readByte_grows s
  | w1b b =>
    dsimp only
    split
    · exact (hwSend_grows b s).trans .of_same
    · trivial
  | w3 | f2 => exact (drainOne_grows s).trans .of_same
  | f1 => dsimp only; split <;> exact Grows.of_same
  | pump todo k =>
    cases todo with
    | nil => exact pumpGoOn_grows [] k s
    | cons p todo => exact pumpStep_grows p todo k s

theorem continueFg_grows (s : State) : Ensures (Grows s) (continueFg s) :=
  (ensures_iff _ _).2 fun _ e =>
    runFg_keeps (P := Grows s) (fun u t hu h => h.trans ((ensures_iff _ _).1 (fgStep_grows u) t hu))
      (fun _ _ _ _ h => h.trans .of_same) (fun x u _ h => h.trans (envEvent_grows x u))
      (fun x u _ h => h.trans (runHandler_grows x u)) (fun _ _ _ _ _ _ u h => h.trans (hardwareReset_grows u)) _
      (.refl s) e

theorem startAt_grows (l : Fg) (s : State) : Ensures (Grows s) (startAt l s) :=
  (ensures_iff _ _).2 fun t e => .trans .of_same ((ensures_iff _ _).1 (continueFg_grows { s with fg := l }) t e)

/-! ### Operations and steps -/

theorem environment_grows (e : EnvEvent) (s : State) : Ensures (Grows s) (environment e s) := by
  unfold environment
  split
  · exact envEvent_grows e s
  · trivial

theorem sampleOf_grows (i : Nat) (s : State) : Ensures (Grows s) (sampleOf i s) := by
  unfold sampleOf
  split
  · exact Grows.of_same
  · trivial
  · trivial

theorem withResult_grows {s : State} {a : Answer} (r : Result) (h : Ensures (Grows s) a) :
    Ensures (Grows s) (withResult r a) := by
  cases a with
  | next t => exact Grows.trans h .of_same
  | fault | refused => trivial

theorem deliver_grows (r : Result) (s : State) : Grows s (deliver r s) := by
  unfold deliver
  split <;> exact .of_same

theorem withRing_grows (s : State) (R : Ring) (r : RingSel) : Grows s (s.withRing R r) := by
  cases r <;> exact .of_same

theorem exec_grows (i : Instr) (s : State) : Ensures (Grows s) (exec i s) := by
  cases i with
  | spEmpty | spTxEmpty | spTxReady | spOverflow | spClearOverflow | cli | sei =>
    exact inForeground_ensures Grows.of_same
  | clkNow | spRead | spWrite | spFlush | blSignal | pump | wait => exact inForeground_ensures (startAt_grows _ s)
  | rbEmpty | rbFull | rbSize => exact inRingContext_ensures (deliver_grows _ s)
  | rbPush r v => exact inRingContext_ensures ((withRing_grows s _ r).trans (deliver_grows _ _))
  | rbPop r =>
    refine inRingContext_ensures ?_
    split
    · exact (withRing_grows s _ r).trans (deliver_grows _ _)
    · trivial
  | rbTop r =>
    refine inRingContext_ensures ?_
    split
    · exact deliver_grows _ s
    · trivial
  | btfCheck b => exact inRingContext_ensures ((filterByte_grows b s).trans (deliver_grows _ _))
  | clkProcess => exact inHandler_ensures Grows.of_same
  | spIntrRx =>
    refine inHandler_ensures ?_
    split
    · exact intrRx_grows _ s
    · trivial
  | spIntrTx => exact inHandler_ensures (intrTx_grows s)
  | spProcessRx => exact inForeground_ensures ((processRx_grows s).trans .of_same)
  | spProcessTx => exact inForeground_ensures ((drainOne_grows s).trans .of_same)
  | dlNew | swNew =>
    refine inForeground_ensures ?_
    split
    · exact startAt_grows _ s
    · trivial
  | dlCancel d =>
    refine inForeground_ensures ?_
    split
    · exact Grows.of_same
    · trivial
  | dlElapsed d =>
    refine inForeground_ensures ?_
    split
    · split
      · split
        · exact Grows.of_same
        · exact startAt_grows _ s
      · trivial
    · trivial
  | dlRestart | swElapsedTime =>
    refine inForeground_ensures ?_
    split
    · split
      · exact startAt_grows _ s
      · trivial
    · trivial
  | spInit baud async =>
    refine inForeground_ensures ?_
    split
    · trivial
    · split
      · trivial
      · exact Grows.of_same
  | adcProcess => exact inForeground_ensures ((adcPoll_grows s).trans .of_same)
  | adcValue | adcValueOf => exact inForeground_ensures (sampleOf_grows _ s)
  | adcStart => exact inForeground_ensures (withResult_grows .none (startConversion_grows s))
  | adcNext => exact inForeground_ensures (withResult_grows .none (startNextConversion_grows s))
  | cfPushData b =>
    refine inForeground_ensures ?_
    split
    · split
      · exact startAt_grows _ s
      · exact Grows.of_same
    · exact startAt_grows _ s
  | cfPayload i =>
    refine inForeground_ensures ?_
    split
    · split
      · exact Grows.of_same
      · trivial
    · trivial
  | blProcess =>
    refine inForeground_ensures ?_
    split
    · exact Grows.of_same
    · exact startAt_grows _ s
  | envTick n => exact tickMany_grows n s
  | envRx | envTxDone | envAdcDone => exact environment_grows _ s
  | envReset => exact hardwareReset_grows s

theorem outerGap_grows (s : State) : Grows s (outerGap s) := by
  obtain ⟨-, e⟩ | ⟨g, gs, -, e⟩ := outerGap_cases s <;> rw [e]
  · exact .refl s
  · exact .trans .of_same (applyMoves_grows g _)

theorem enterHandler_grows (s : State) : Grows s (enterHandler s) := by
  obtain ⟨-, e⟩ | ⟨h, -, e⟩ := enterHandler_cases s <;> rw [e]
  · exact .refl s
  · exact .of_same

theorem step_grows {s t : State} (e : step s = .next t) : Grows s t := by
  obtain ⟨h, u, -, -, hu, rfl⟩ | ⟨-, -, rfl⟩ | ⟨-, -, rfl⟩ | ⟨-, -, -, rfl⟩ | ⟨-, -, -, hgo⟩ |
    ⟨i, rest, -, -, -, hx⟩ := step_cases e
  · have hbody : Grows (outerGap s) u := (ensures_iff _ _).1 (exec_grows h.body _) u hu
    exact ((outerGap_grows s).trans hbody).trans .of_same
  · exact outerGap_grows s
  · exact (outerGap_grows s).trans (enterHandler_grows _)
  · exact .refl _
  · exact (ensures_iff _ _).1 (continueFg_grows s) t hgo
  · have hop : Grows { s with issue := rest } t := (ensures_iff _ _).1 (exec_grows i _) t hx
    exact .trans .of_same hop

/-- Settles O60: every move of the block and of its environment only appends to the histories, and a machine step is made
of such moves. -/
theorem historiesGrow : Obligations.HistoriesGrow := by
  unfold Obligations.HistoriesGrow
  intro s t e
  have h := step_grows e
  exact ⟨h.cfg, h.line, h.conditions, h.boots⟩

end Sys2Proof.Machine
end

section
/-! SUPPORT. The invariant beside the foreground (R68, R266, R300): the environment, the handler bodies and HOST's reset keep
it, and leave the place of the foreground as it was. -/

namespace Sys2Proof.Machine

/-! ### Parameters and rings -/

/-- The constraints of R6 that the invariant leans on. -/
theorem Params.valid_pos {P : Params} (h : P.valid = true) :
    1 ≤ P.baud ∧ 1 ≤ P.bootSeq.length ∧ 1 ≤ P.channels.length := by
  simp only [Params.valid, Bool.and_eq_true, decide_eq_true_eq] at h
  obtain ⟨⟨⟨⟨⟨⟨⟨⟨⟨⟨⟨-, hbaud⟩, -⟩, -⟩, -⟩, -⟩, hboot⟩, -⟩, hchannels⟩, -⟩, -⟩, -⟩ := h
  exact ⟨hbaud, hboot, hchannels⟩

theorem fitsWidth_mod (w v : Nat) : FitsWidth w (v % 2 ^ w) := Nat.mod_lt _ (Nat.two_pow_pos w)

theorem fitsWidth_addMod (w a b : Nat) : FitsWidth w (addMod w a b) := fitsWidth_mod w _

/-- A clock value fits `W_TIME` (R96). -/
theorem fitsWidth_wideTime {P : Params} {o c : Nat} (ho : FitsWidth P.wOvf o) (hc : FitsWidth P.wCnt c) :
    FitsWidth P.wTime (wideTime P o c) := by
  have hmul : (o + 1) * 2 ^ P.wCnt ≤ 2 ^ P.wOvf * 2 ^ P.wCnt := Nat.mul_le_mul_right _ ho
  simp only [FitsWidth, wideTime, Params.wTime, pow_add, Nat.add_mul, Nat.one_mul] at *
  omega

theorem RingOk.empty (n : Nat) : RingOk n (Ring.empty n) where
  slots := List.length_replicate
  count_le := Nat.zero_le n
  head_lt := Nat.pos_of_ne_zero
  tail_eq _ := (Nat.zero_mod n).symm

theorem RingOk.push {n : Nat} {R : Ring} (h : RingOk n R) (v : Byte) : RingOk n (ringPush n v R).1 := by
  obtain ⟨-, e⟩ | ⟨hc, e⟩ := ringPush_cases n v R <;> rw [e]
  · exact h
  · have hle := h.count_le
    exact
      { slots := by simp [h.slots]
        count_le := by dsimp only; omega
        head_lt := h.head_lt
        tail_eq := fun hn => by simp only [h.tail_eq hn, Nat.mod_add_mod, Nat.add_assoc] }

theorem ringPush_count_ne_zero {n : Nat} {R : Ring} (v : Byte) (h : R.count ≠ 0) : (ringPush n v R).1.count ≠ 0 := by
  obtain ⟨-, e⟩ | ⟨-, e⟩ := ringPush_cases n v R <;> rw [e]
  · exact h
  · exact Nat.succ_ne_zero _

/-- The ring that R122 leaves after a pop. -/
theorem RingOk.pop {n : Nat} {R : Ring} (h : RingOk n R) (hc : R.count ≠ 0) :
    RingOk n { R with head := (R.head + 1) % n, count := R.count - 1 } := by
  have hle := h.count_le
  exact
    { slots := h.slots
      count_le := by dsimp only; omega
      head_lt := fun hn => Nat.mod_lt _ (Nat.pos_of_ne_zero hn)
      tail_eq := fun hn => by
        have hsum : R.head + 1 + (R.count - 1) = R.head + R.count := by omega
        simp only [h.tail_eq hn, Nat.mod_add_mod, hsum] }

/-! ### What happens beside the foreground -/

/-- From `s` to `t` only what stands beside the foreground moved: the environment, or a handler from its entry to its
return. The place of the foreground and what its operation keeps in the state are untouched, bytes only enter the receive
ring and only leave the transmit ring, and the transmitter is made busy only by a byte of that ring. -/
structure Beside (s t : State) : Prop where
  fg : t.fg = s.fg
  cfg : t.cfg = s.cfg
  dl : t.dl = s.dl
  sw : t.sw = s.sw
  cf : t.cf = s.cf
  adc : t.adc = s.adc
  bl : t.bl = s.bl
  cpu : t.cpu = s.cpu
  rx : s.sp.rx.count ≠ 0 → t.sp.rx.count ≠ 0
  tx : t.sp.tx.count ≤ s.sp.tx.count
  ready : s.sp.tx.count = 0 → s.hw.txEmpty = true → t.hw.txEmpty = true

namespace Beside

/-- An update that writes nothing the place of the foreground depends on. -/
theorem of_same {s t : State} (fg : t.fg = s.fg := by rfl) (cfg : t.cfg = s.cfg := by rfl) (dl : t.dl = s.dl := by rfl)
    (sw : t.sw = s.sw := by rfl) (cf : t.cf = s.cf := by rfl) (adc : t.adc = s.adc := by rfl)
    (bl : t.bl = s.bl := by rfl) (cpu : t.cpu = s.cpu := by rfl) (rx : t.sp.rx = s.sp.rx := by rfl)
    (tx : t.sp.tx = s.sp.tx := by rfl) (ready : s.hw.txEmpty = true → t.hw.txEmpty = true := by exact id) :
    Beside s t where
  fg := fg
  cfg := cfg
  dl := dl
  sw := sw
  cf := cf
  adc := adc
  bl := bl
  cpu := cpu
  rx h := by rwa [rx]
  tx := by rw [tx]
  ready _ := ready

theorem refl (s : State) : Beside s s := of_same

theorem trans {s t u : State} (h : Beside s t) (k : Beside t u) : Beside s u where
  fg := k.fg.trans h.fg
  cfg := k.cfg.trans h.cfg
  dl := k.dl.trans h.dl
  sw := k.sw.trans h.sw
  cf := k.cf.trans h.cf
  adc := k.adc.trans h.adc
  bl := k.bl.trans h.bl
  cpu := k.cpu.trans h.cpu
  rx hs := k.rx (h.rx hs)
  tx := k.tx.trans h.tx
  ready hc hs := k.ready (Nat.eq_zero_of_le_zero (hc ▸ h.tx)) (h.ready hc hs)

end Beside

/-- What the reader of the clock needs stands in fields that nothing beside the foreground writes. -/
theorem AfterNowOk.beside {s t : State} {k : AfterNow} (b : Beside s t) (h : AfterNowOk s k) : AfterNowOk t k := by
  have heq : AfterNowOk t k = AfterNowOk s k := by
    cases k <;> simp only [AfterNowOk, b.cfg, b.dl, b.sw, b.cf, b.bl]
  exact heq ▸ h

/-- What happens beside the foreground leaves its place as `FgOk` wants it. -/
theorem Inv.place_beside {s t : State} (h : Inv s) (b : Beside s t) : FgOk t := by
  have hp := h.place
  have hfull := h.tx.count_le
  have hless := b.tx
  unfold FgOk at *
  rw [b.fg]
  cases hf : s.fg <;> rw [hf] at hp
  case idle | rd1 | rd2a | f1 | f2 => trivial
  case now ph k => exact ⟨b.cfg ▸ hp.1, hp.2.beside b⟩
  case rd2b | rd2c => simpa only [b.cpu] using hp
  case rd3 => exact b.rx hp
  case w1a | w2 | w3 | w5 => simpa only [b.cfg] using hp
  case w1b =>
    obtain ⟨hn, hready⟩ := hp
    exact ⟨b.cfg ▸ hn, b.ready (by omega) hready⟩
  case w4 =>
    obtain ⟨hn, hfree⟩ := hp
    exact ⟨b.cfg ▸ hn, by rw [b.cfg]; omega⟩
  case pump | blArm => simpa only [b.cfg, b.adc] using hp

/-! ### Environment -/

theorem envEvent_beside (e : EnvEvent) (s : State) : Beside s (e.apply s) := by
  cases e with
  | tick | rx | adcDone => exact .of_same
  | txDone => exact .of_same (ready := fun _ => rfl)

theorem envEvent_keeps_inv {e : EnvEvent} {s : State} (he : e.enabled s = true) (h : Inv s) : Inv (e.apply s) := by
  have hplace := h.place_beside (envEvent_beside e s)
  cases e with
  | tick => exact { h with counter := fitsWidth_addMod _ _ _, place := hplace }
  | rx d ovf fe => exact { h with frame := fun _ => Option.some_ne_none _, place := hplace }
  | txDone => exact { h with place := hplace }
  | adcDone v =>
    simp only [EnvEvent.enabled, Bool.and_eq_true, decide_eq_true_eq] at he
    exact { h with adc_result := he.2, adc_idle := fun _ => rfl, adc_flight := fun _ => rfl, place := hplace }

/-! ### Reset -/

/-- The invariant holds after a reset under every admitted set of parameters (R55). -/
theorem resetWith_inv {P : Params} (h : P.valid = true) : Inv (State.resetWith P) := by
  obtain ⟨hbaud, hboot, hchannels⟩ := Params.valid_pos h
  have hzero : ∀ w, FitsWidth w 0 := Nat.two_pow_pos
  exact
    { params := h, rx := .empty _, tx := .empty _, loss := hzero _, baud := hbaud, progress := hboot, tally := hzero _
      counter := hzero _, dl_length := List.length_replicate
      dl_fields := fun D hD => by rw [List.eq_of_mem_replicate hD]; exact ⟨hzero _, hzero _⟩
      sw_length := List.length_replicate
      sw_fields := fun W hW => by rw [List.eq_of_mem_replicate hW]; exact hzero _
      framer_base := hzero _, framer_duration := rfl, framer_armed := rfl, adc_cur := hchannels
      adc_latest := List.length_replicate, adc_valid := List.length_replicate
      adc_samples := fun v hv => by rw [List.eq_of_mem_replicate hv]; exact hzero _
      adc_result := hzero _, adc_idle := fun _ => rfl, adc_flight := fun h => Bool.noConfusion h, blink_count := hzero _
      blink_times := ⟨hzero _, hzero _, hzero _⟩, masked := fun _ => rfl
      frame := fun h => (nomatch h), place := trivial }

/-- HOST's reset meets the invariant whatever the free values are (R300, R55). -/
theorem hardwareReset_inv {s : State} (h : s.cfg.valid = true) : Inv (hardwareReset s) := by
  have hr := resetWith_inv h
  exact
    { hr with
      rx := { hr.rx with slots := List.length_ofFn }
      tx := { hr.tx with slots := List.length_ofFn }
      counter := fitsWidth_mod _ _
      dl_length := List.length_ofFn
      dl_fields := fun D hD => by
        obtain ⟨i, rfl⟩ := List.mem_ofFn.1 hD
        exact ⟨fitsWidth_mod _ _, fitsWidth_mod _ _⟩
      sw_length := List.length_ofFn
      sw_fields := fun W hW => by
        obtain ⟨i, rfl⟩ := List.mem_ofFn.1 hW
        exact fitsWidth_mod _ _
      framer_base := fitsWidth_mod _ _
      adc_latest := List.length_ofFn
      adc_samples := fun v hv => by
        obtain ⟨i, rfl⟩ := List.mem_ofFn.1 hv
        exact fitsWidth_mod _ _
      adc_result := fitsWidth_mod _ _
      blink_times := ⟨fitsWidth_mod _ _, fitsWidth_mod _ _, fitsWidth_mod _ _⟩ }

/-! ### Handler bodies -/

theorem filterByte_beside (b : Byte) (s : State) : Beside s (filterByte b s) := by
  obtain ⟨p, -, ⟨-, e⟩ | ⟨-, e⟩⟩ := filterByte_cases b s <;> rw [e] <;> exact .of_same

theorem bufferByte_beside (b : Byte) (s : State) : Beside s (bufferByte b s) := by
  refine (filterByte_beside b s).trans ?_
  obtain ⟨-, e⟩ | ⟨-, e⟩ := bufferByte_cases b s <;> rw [e]
  · exact .of_same
  · exact { Beside.refl (filterByte b s) with rx := ringPush_count_ne_zero b }

theorem takeFrame_beside (f : Frame) (s : State) : Beside s (takeFrame f s) := by
  obtain ⟨-, e⟩ | ⟨-, e⟩ := takeFrame_cases f s <;> rw [e] <;> exact .of_same

theorem intrRx_beside (f : Frame) (s : State) : Beside s (intrRx f s) := by
  refine (takeFrame_beside f s).trans ?_
  obtain ⟨-, e⟩ | ⟨-, e⟩ := intrRx_cases f s <;> rw [e]
  · exact .of_same
  · exact (bufferByte_beside f.data _).trans .of_same

theorem processRx_beside (s : State) : Beside s (processRx s) := by
  obtain ⟨-, e⟩ | ⟨f, -, e⟩ := processRx_cases s <;> rw [e]
  · exact .refl s
  · exact intrRx_beside f s

theorem drainOne_beside (s : State) : Beside s (drainOne s) := by
  obtain ⟨e, -⟩ | ⟨-, hc, e⟩ := drainOne_cases s <;> rw [e]
  · exact .refl s
  · exact { Beside.refl s with tx := Nat.sub_le _ _, ready := fun h => absurd h hc }

theorem intrTx_beside (s : State) : Beside s (intrTx s) := by
  refine (drainOne_beside s).trans ?_
  obtain ⟨-, e⟩ | ⟨-, e⟩ := intrTx_cases s <;> rw [e]
  · exact .of_same
  · exact .refl _

theorem raise_keeps_inv (c : Condition) {s : State} (h : Inv s) : Inv (raise c s) :=
  { h with place := h.place_beside .of_same }

theorem countLoss_keeps_inv (c : Condition) {s : State} (h : Inv s) : Inv (countLoss c s) :=
  { h with loss := fitsWidth_addMod _ _ _, place := h.place_beside .of_same }

/-- R167: a mismatch leaves a progress of 0 or 1. -/
theorem progressAfterMismatch_le (P : Params) (b : Byte) : progressAfterMismatch P b ≤ 1 := by
  unfold progressAfterMismatch
  split <;> omega

theorem filterByte_keeps_inv (b : Byte) {s : State} (h : Inv s) : Inv (filterByte b s) := by
  obtain ⟨-, hboot, -⟩ := Params.valid_pos h.params
  have hplace := h.place_beside (filterByte_beside b s)
  obtain ⟨p, hp, ⟨-, e⟩ | ⟨hne, e⟩⟩ := filterByte_cases b s <;> rw [e] at hplace ⊢
  · exact { h with progress := hboot, place := hplace }
  · have hle : p ≤ s.cfg.bootSeq.length := by
      obtain ⟨rfl, -⟩ | ⟨rfl, -⟩ := hp
      · exact h.progress
      · exact (progressAfterMismatch_le _ _).trans hboot
    exact { h with progress := lt_of_le_of_ne hle hne, place := hplace }

theorem bufferByte_keeps_inv (b : Byte) {s : State} (h : Inv s) : Inv (bufferByte b s) := by
  have hfilter := filterByte_keeps_inv b h
  have hplace := h.place_beside (bufferByte_beside b s)
  obtain ⟨-, e⟩ | ⟨-, e⟩ := bufferByte_cases b s <;> rw [e] at hplace ⊢
  · exact countLoss_keeps_inv _ hfilter
  · exact { hfilter with rx := hfilter.rx.push b, place := hplace }

/-- The frame may be consumed where the receive handler does not run (R272 asks for one at its body). -/
theorem takeFrame_keeps_inv (f : Frame) {s : State} (hh : s.cpu.handler ≠ some .rxc) (h : Inv s) :
    Inv (takeFrame f s) := by
  have hconsumed : Inv { s with hw := { s.hw with rxFrame := none } } :=
    { h with frame := fun hr => absurd hr hh, place := h.place_beside .of_same }
  obtain ⟨-, e⟩ | ⟨-, e⟩ := takeFrame_cases f s <;> rw [e]
  · exact countLoss_keeps_inv _ hconsumed
  · exact hconsumed

theorem intrRx_keeps_inv (f : Frame) {s : State} (hh : s.cpu.handler ≠ some .rxc) (h : Inv s) : Inv (intrRx f s) := by
  have hframe := takeFrame_keeps_inv f hh h
  have hplace := h.place_beside (intrRx_beside f s)
  obtain ⟨-, e⟩ | ⟨-, e⟩ := intrRx_cases f s <;> rw [e] at hplace ⊢
  · exact { raise_keeps_inv .framingError hframe with place := hplace }
  · exact { bufferByte_keeps_inv f.data hframe with place := hplace }

theorem processRx_keeps_inv {s : State} (hh : s.cpu.handler ≠ some .rxc) (h : Inv s) : Inv (processRx s) := by
  obtain ⟨-, e⟩ | ⟨f, -, e⟩ := processRx_cases s <;> rw [e]
  · exact h
  · exact intrRx_keeps_inv f hh h

theorem drainOne_keeps_inv {s : State} (h : Inv s) : Inv (drainOne s) := by
  have hplace := h.place_beside (drainOne_beside s)
  obtain ⟨e, -⟩ | ⟨-, hc, e⟩ := drainOne_cases s <;> rw [e] at hplace ⊢
  · exact h
  · exact { h with tx := h.tx.pop hc, place := hplace }

theorem intrTx_keeps_inv {s : State} (h : Inv s) : Inv (intrTx s) := by
  have hdrained := drainOne_keeps_inv h
  have hplace := h.place_beside (intrTx_beside s)
  obtain ⟨-, e⟩ | ⟨-, e⟩ := intrTx_cases s <;> rw [e] at hplace ⊢
  · exact { hdrained with place := hplace }
  · exact hdrained

theorem handlerBody_keeps_inv (x : Handler) {s : State} (hh : s.cpu.handler ≠ some .rxc) (h : Inv s) :
    Inv (handlerBody x s) := by
  cases x with
  | tov => exact { h with tally := fitsWidth_addMod _ _ _, place := h.place_beside .of_same }
  | rxc => exact processRx_keeps_inv hh h
  | dre => exact intrTx_keeps_inv h

/-! ### Bodies and the processor state -/

theorem filterByte_cpu (b : Byte) (c : Cpu) (s : State) :
    filterByte b { s with cpu := c } = { filterByte b s with cpu := c } := by
  unfold filterByte
  dsimp only
  split <;> split <;> rfl

theorem bufferByte_cpu (b : Byte) (c : Cpu) (s : State) :
    bufferByte b { s with cpu := c } = { bufferByte b s with cpu := c } := by
  simp only [bufferByte, filterByte_cpu]
  split <;> rfl

theorem takeFrame_cpu (f : Frame) (c : Cpu) (s : State) :
    takeFrame f { s with cpu := c } = { takeFrame f s with cpu := c } := by
  unfold takeFrame
  dsimp only
  split <;> rfl

theorem intrRx_cpu (f : Frame) (c : Cpu) (s : State) : intrRx f { s with cpu := c } = { intrRx f s with cpu := c } := by
  simp only [intrRx_eq, takeFrame_cpu, bufferByte_cpu]
  split <;> rfl

theorem processRx_cpu (c : Cpu) (s : State) : processRx { s with cpu := c } = { processRx s with cpu := c } := by
  unfold processRx
  dsimp only
  split
  · exact intrRx_cpu _ c s
  · rfl

theorem drainOne_cpu (c : Cpu) (s : State) : drainOne { s with cpu := c } = { drainOne s with cpu := c } := by
  unfold drainOne
  dsimp only
  split
  · split <;> rfl
  · rfl

theorem intrTx_cpu (c : Cpu) (s : State) : intrTx { s with cpu := c } = { intrTx s with cpu := c } := by
  simp only [intrTx, drainOne_cpu]
  split <;> rfl

/-- No body reads or writes the processor state (R266). -/
theorem handlerBody_cpu (h : Handler) (c : Cpu) (s : State) :
    handlerBody h { s with cpu := c } = { handlerBody h s with cpu := c } := by
  cases h with
  | tov => rfl
  | rxc => exact processRx_cpu c s
  | dre => exact intrTx_cpu c s

end Sys2Proof.Machine
end

section
/-! SUPPORT. The foreground goes on (R10, R182, R250, R272): every labelled step from a state that meets the invariant
answers a state that meets it again, through every gap; and a handler that runs completes. -/

namespace Sys2Proof.Machine

/-! ### Handler runs and moves -/

/-- A handler's whole run is its body in the interrupted state, whose processor fields it finds again (R267, R270). -/
theorem runHandler_eq (x : Handler) (s : State) : runHandler x s = handlerBody x (returnIrq (takeIrq x s)) :=
  (handlerBody_cpu x { gie := true, handler := none } (takeIrq x s)).symm

/-- What is taken returns to the processor state it came from (R267, R270). -/
theorem cpu_of_chooseIrq {s : State} {x : Handler} (hc : chooseIrq s = some x) :
    s.cpu = { gie := true, handler := none } := by
  obtain ⟨hgie, hhandler, -⟩ := chooseIrq_some hc
  rw [← hgie, ← hhandler]

theorem entry_beside {s : State} {x : Handler} (hc : chooseIrq s = some x) :
    Beside s (returnIrq (takeIrq x s)) :=
  .of_same (cpu := (cpu_of_chooseIrq hc).symm)

theorem runHandler_keeps_inv {s : State} {x : Handler} (hc : chooseIrq s = some x) (h : Inv s) : Inv (runHandler x s) := by
  have hentry : Inv (returnIrq (takeIrq x s)) :=
    { h with
      masked := fun hn => absurd rfl hn, frame := fun hr => (nomatch hr), place := h.place_beside (entry_beside hc) }
  rw [runHandler_eq]
  exact handlerBody_keeps_inv x (by simp) hentry

theorem applyMoves_keeps_inv (g : List Move) {s : State} (h : Inv s) : Inv (applyMoves g s) :=
  applyMoves_keeps (fun _ _ he hu => envEvent_keeps_inv he hu) (fun _ _ hc hu => runHandler_keeps_inv hc hu)
    (fun _ _ hu => hardwareReset_inv hu.params) h

/-! ### Labelled steps -/

/-- The foreground runs: the invariant holds and no handler runs. -/
structure FgRuns (s : State) : Prop where
  inv : Inv s
  noHandler : s.cpu.handler = none

/-- An answer with which the foreground goes on: a next state in which it runs. -/
def GoesOn (a : Answer) : Prop := ∃ t, a = .next t ∧ FgRuns t

theorem FgRuns.not_rxc {s : State} (h : FgRuns s) : s.cpu.handler ≠ some .rxc := by simp [h.noHandler]

theorem FgRuns.goesOn {t : State} (h : FgRuns t) : GoesOn (.next t) := ⟨t, rfl, h⟩

/-- The invariant apart from the place of the foreground: every place but the one between operations asks more. -/
theorem Inv.at_idle {s : State} (h : Inv s) : Inv { s with fg := .idle } := { h with place := trivial }

/-- The foreground moves to a place that fits the state. -/
theorem Inv.move {s : State} {l : Fg} (h : Inv s) (hl : FgOk { s with fg := l }) : Inv { s with fg := l } :=
  { h with place := hl }

/-- The foreground is done with its operation (R94). -/
theorem FgRuns.finish {s : State} (h : FgRuns s) (r : Result) : GoesOn (.next (finish r s)) :=
  FgRuns.goesOn ⟨{ h.inv with place := trivial }, h.noHandler⟩

theorem FgRuns.move {s : State} {l : Fg} (h : FgRuns s) (hl : FgOk { s with fg := l }) : GoesOn (.next { s with fg := l }) :=
  FgRuns.goesOn ⟨h.inv.move hl, h.noHandler⟩

/-- A gap that the schedule or prompt service fills (R10, R268). -/
theorem gap_keeps_fgRuns (g : List Move) {s : State} (h : FgRuns s) : FgRuns (gap g s) :=
  gap_keeps (P := FgRuns)
    (fun e u he hu => ⟨envEvent_keeps_inv he hu.inv, (envEvent_beside e u).cpu ▸ hu.noHandler⟩)
    (fun _ _ hc hu => ⟨runHandler_keeps_inv hc hu.inv, rfl⟩)
    (fun _ _ hu => ⟨hardwareReset_inv hu.inv.params, rfl⟩) h

theorem serveAll_keeps_fgRuns {s : State} (h : FgRuns s) : FgRuns (serveAll s) := gap_keeps_fgRuns [] h

/-- R242 apart from the place of the foreground: the remaining pulses only fall, and the phase starts at a clock value. -/
theorem blinkAt_keeps_inv {t : Nat} {s : State} (h : Inv { s with fg := .idle }) (ht : FitsWidth s.cfg.wTime t) :
    Inv { blinkAt t s with fg := .idle } := by
  obtain ⟨hon, hoff, -⟩ := h.blink_times
  obtain e | ⟨-, e⟩ | ⟨-, e⟩ := blinkAt_cases t s <;> rw [e]
  · exact h
  · exact { h with blink_count := lt_of_le_of_lt (Nat.sub_le _ 1) h.blink_count, blink_times := ⟨hon, hoff, ht⟩ }
  · exact { h with blink_times := ⟨hon, hoff, ht⟩ }

theorem blinkAt_cfg (t : Nat) (s : State) : (blinkAt t s).cfg = s.cfg := by
  obtain e | ⟨-, e⟩ | ⟨-, e⟩ := blinkAt_cases t s <;> rw [e]

theorem blinkAt_cpu (t : Nat) (s : State) : (blinkAt t s).cpu = s.cpu := by
  obtain e | ⟨-, e⟩ | ⟨-, e⟩ := blinkAt_cases t s <;> rw [e]

/-- What follows a part of a `PUMP` (R250): its parts still to do, its return, or WT2 of a `WAIT`. -/
theorem pumpGoOn_goesOn {todo : List PumpPart} {k : AfterPump} {s : State} (h : Inv { s with fg := .idle })
    (hn : s.cpu.handler = none) (hp : FgOk { s with fg := .pump todo k }) : GoesOn (.next (pumpGoOn todo k s)) := by
  obtain ⟨htail, hhead, hk⟩ := hp
  cases todo with
  | nil =>
    cases k with
    | ret => exact FgRuns.goesOn ⟨{ h with }, hn⟩
    | wait base duration => exact FgRuns.goesOn ⟨{ h with place := ⟨trivial, hk⟩ }, hn⟩
  | cons p ps => exact FgRuns.goesOn ⟨{ h with place := ⟨htail, hhead, hk⟩ }, hn⟩

/-- PU4 stands in no `PUMP` that has not begun: only PU3 leads to it (R250). -/
theorem adcNext_notMem_pumpAll (P : Params) : PumpPart.adcNext ∉ pumpAll P := by
  intro hm
  obtain ⟨u, -, hu⟩ := List.mem_flatMap.1 hm
  cases u <;> simp [pumpParts] at hu

/-- A place in a `PUMP` whose parts still to do have no PU4 (R250). -/
theorem fgOk_pump {todo : List PumpPart} {k : AfterPump} {s : State} (ht : PumpPart.adcNext ∉ todo)
    (hk : AfterPumpOk s.cfg k) : FgOk { s with fg := .pump todo k } :=
  ⟨fun hm => ht (List.mem_of_mem_tail hm), fun hh => absurd (List.mem_of_head? hh) ht, hk⟩

/-- A deadline whose fields fit is written at the end of its operation (R151, R153). -/
theorem setDeadline_goesOn {d : Nat} {D : Deadline} {s : State} (h : FgRuns s) (hD : DeadlineOk s.cfg D) :
    GoesOn (.next (finish .none { s with dl := s.dl.set d D })) := by
  refine FgRuns.goesOn ⟨{ h.inv with dl_length := ?_, dl_fields := ?_, place := trivial }, h.noHandler⟩
  · exact List.length_set.trans h.inv.dl_length
  · intro E hE
    obtain hE | rfl := List.mem_or_eq_of_mem_set hE
    · exact h.inv.dl_fields E hE
    · exact hD

/-- What the operation does with the clock value that fits `W_TIME` (log 30). -/
theorem afterNow_goesOn {t : Nat} {k : AfterNow} {s : State} (h : FgRuns s) (hk : AfterNowOk s k)
    (ht : FitsWidth s.cfg.wTime t) : GoesOn (afterNow t k s) := by
  have hinv := h.inv
  have hn := h.noHandler
  cases k with
  | clkNow => exact h.finish _
  | dlNew d duration => exact setDeadline_goesOn h ⟨ht, hk.2⟩
  | dlElapsed d =>
    have hd : s.dl[d]? = some s.dl[d] := List.getElem?_eq_getElem hk
    simp only [afterNow, hd]
    exact h.finish _
  | dlRestart d =>
    have hd : s.dl[d]? = some s.dl[d] := List.getElem?_eq_getElem hk
    simp only [afterNow, hd]
    exact setDeadline_goesOn h ⟨ht, (h.inv.dl_fields _ (List.getElem_mem hk)).2⟩
  | swNew w =>
    refine FgRuns.goesOn ⟨{ hinv with sw_length := ?_, sw_fields := ?_, place := trivial }, hn⟩
    · exact List.length_set.trans hinv.sw_length
    · intro W hW
      obtain hW | rfl := List.mem_or_eq_of_mem_set hW
      · exact hinv.sw_fields W hW
      · exact ht
  | swElapsed w =>
    have hw : s.sw[w]? = some s.sw[w] := List.getElem?_eq_getElem hk
    simp only [afterNow, hw]
    exact h.finish _
  | cfArm => exact FgRuns.goesOn ⟨{ hinv with framer_base := ht, framer_armed := rfl, place := trivial }, hn⟩
  | cfPayload b =>
    simp only [afterNow, takePayload]
    split <;> exact FgRuns.goesOn ⟨{ hinv with place := trivial }, hn⟩
  | blSignal =>
    obtain ⟨hon, hoff, -⟩ := hinv.blink_times
    exact FgRuns.goesOn ⟨{ hinv with blink_times := ⟨hon, hoff, ht⟩, place := trivial }, hn⟩
  | blProcess =>
    have hblink := blinkAt_keeps_inv hinv.at_idle ht
    exact FgRuns.goesOn ⟨{ hblink with }, (blinkAt_cpu t s).symm ▸ hn⟩
  | pumpBlink todo k =>
    obtain ⟨-, htodo, hpump⟩ := hk
    refine pumpGoOn_goesOn (blinkAt_keeps_inv hinv.at_idle ht) ((blinkAt_cpu t s).symm ▸ hn) (fgOk_pump htodo ?_)
    rwa [blinkAt_cfg]
  | waitBase duration => exact FgRuns.goesOn ⟨{ hinv with place := ⟨trivial, ht, hk⟩ }, hn⟩
  | waitTest base duration =>
    simp only [afterNow]
    split
    · exact h.finish _
    · exact pumpGoOn_goesOn hinv.at_idle hn (fgOk_pump (adcNext_notMem_pumpAll _) hk)

/-- N1 to N5 of R137: the locals of a clock reading keep their widths. -/
theorem nowStep_goesOn {ph : NowPhase} {k : AfterNow} {s : State} (h : FgRuns s) (hph : PhaseOk s.cfg ph)
    (hk : AfterNowOk s k) : GoesOn (nowStep ph k s) := by
  cases ph with
  | n1 => exact h.move ⟨h.inv.counter, hk⟩
  | n2 c1 =>
    simp only [nowStep]
    split <;> exact h.move ⟨⟨hph, h.inv.tally⟩, hk⟩
  | n2rest c1 o writes left =>
    simp only [nowStep, readTally]
    split
    · split
      · exact h.move ⟨hph, hk⟩
      · exact FgRuns.goesOn ⟨{ h.inv with place := ⟨⟨hph.1, fitsWidth_mod _ _⟩, hk⟩ }, h.noHandler⟩
    · exact h.move ⟨hph, hk⟩
  | n3 c1 o =>
    obtain ⟨hc1, ho⟩ := hph
    exact h.move ⟨⟨hc1, ho, h.inv.counter⟩, hk⟩
  | n4 c1 o c2 =>
    obtain ⟨-, ho, hc2⟩ := hph
    simp only [nowStep]
    split
    · exact h.move ⟨⟨ho, hc2⟩, hk⟩
    · exact h.move ⟨trivial, hk⟩
  | n5 o c2 =>
    obtain ⟨ho, hc2⟩ := hph
    exact afterNow_goesOn h hk (fitsWidth_wideTime ho hc2)

/-- R212 apart from the place of the foreground: a conversion that is ready is in flight no longer. -/
theorem storeSample_keeps_inv {s : State} (hr : s.sampleReady = true) (h : Inv { s with fg := .idle }) :
    Inv { storeSample s with fg := .idle } := by
  simp only [State.sampleReady, Bool.and_eq_true] at hr
  obtain ⟨hflight, hready⟩ := hr
  exact
    { h with
      adc_latest := List.length_set.trans h.adc_latest
      adc_valid := List.length_set.trans h.adc_valid
      adc_samples := fun v hv => by
        obtain hv | rfl := List.mem_or_eq_of_mem_set hv
        · exact h.adc_samples v hv
        · exact h.adc_result
      adc_idle := fun _ => by simpa [hready] using h.adc_flight hflight
      adc_flight := fun hp => Bool.noConfusion hp }

/-- PU4 finds the next channel (R214, R250). -/
theorem startNextConversion_eq {s : State} (h : Inv { s with fg := .idle }) (hp : s.adc.inProgress = false) :
    ∃ c, startNextConversion s = .next (beginConversion c { s with adc := { s.adc with
        cur := (s.adc.cur + 1) % s.cfg.channels.length } }) := by
  have hlt : (s.adc.cur + 1) % s.cfg.channels.length < s.cfg.channels.length :=
    Nat.mod_lt _ (Nat.zero_lt_of_lt h.adc_cur)
  exact ⟨(s.cfg.channels[(s.adc.cur + 1) % s.cfg.channels.length]).ch,
    by simp [startNextConversion, startConversion, hp, List.getElem?_eq_getElem hlt]⟩

/-- PU1 to PU5 of R250. -/
theorem pumpStep_goesOn {p : PumpPart} {todo : List PumpPart} {k : AfterPump} {s : State} (h : FgRuns s)
    (hf : FgOk { s with fg := .pump (p :: todo) k }) : GoesOn (pumpStep p todo k s) := by
  obtain ⟨htodo, hflight, hk⟩ := hf
  cases p with
  | rx =>
    have b := processRx_beside s
    have hinv := processRx_keeps_inv h.not_rxc h.inv
    exact pumpGoOn_goesOn hinv.at_idle (b.cpu ▸ h.noHandler) (fgOk_pump htodo (b.cfg ▸ hk))
  | tx =>
    have b := drainOne_beside s
    have hinv := drainOne_keeps_inv h.inv
    exact pumpGoOn_goesOn hinv.at_idle (b.cpu ▸ h.noHandler) (fgOk_pump htodo (b.cfg ▸ hk))
  | adcPoll =>
    obtain ⟨hr, e⟩ | ⟨-, e⟩ := adcPoll_cases s <;> simp only [pumpStep, e]
    · exact pumpGoOn_goesOn (storeSample_keeps_inv hr h.inv.at_idle) h.noHandler ⟨htodo, fun _ => rfl, hk⟩
    · exact pumpGoOn_goesOn h.inv.at_idle h.noHandler (fgOk_pump htodo hk)
  | adcNext =>
    obtain ⟨c, e⟩ := startNextConversion_eq h.inv.at_idle (hflight rfl)
    simp only [pumpStep, e]
    refine pumpGoOn_goesOn ?_ h.noHandler (fgOk_pump htodo hk)
    exact
      { h.inv.at_idle with
        adc_cur := Nat.mod_lt _ (Nat.zero_lt_of_lt h.inv.adc_cur)
        adc_idle := fun hp => Bool.noConfusion hp
        adc_flight := fun _ => rfl }
  | blink =>
    simp only [pumpStep]
    split
    · exact pumpGoOn_goesOn h.inv.at_idle h.noHandler (fgOk_pump htodo hk)
    · next hne => exact h.move ⟨h.inv.counter, hne, htodo, hk⟩

/-- RD3 finds a byte (R181). -/
theorem readByte_goesOn {s : State} (h : FgRuns s) (hc : s.sp.rx.count ≠ 0) : GoesOn (readByte s) := by
  obtain ⟨h0, -⟩ | ⟨-, e⟩ := ringPop_cases s.cfg.nRx s.sp.rx
  · exact absurd h0 hc
  · simp only [readByte, e]
    exact FgRuns.goesOn ⟨{ h.inv with rx := h.inv.rx.pop hc, place := trivial }, h.noHandler⟩

/-- R10: one labelled step from any place that fits the state. -/
theorem fgStep_goesOn {s : State} (h : FgRuns s) : GoesOn (fgStep s) := by
  have hp := h.inv.place
  unfold FgOk at hp
  unfold fgStep
  cases hf : s.fg <;> rw [hf] at hp <;> dsimp only
  case idle => exact h.goesOn
  case now ph k =>
    obtain ⟨hph, hk⟩ := hp
    exact nowStep_goesOn h hph hk
  case rd1 =>
    split
    · exact h.move trivial
    · next hne => exact h.move (by simpa [FgOk, Ring.isEmpty] using hne)
  case rd2a => exact FgRuns.goesOn ⟨{ h.inv with masked := fun _ => rfl, place := ⟨rfl, h.noHandler⟩ }, h.noHandler⟩
  case rd2b =>
    have b := processRx_beside s
    exact FgRuns.goesOn ⟨(processRx_keeps_inv h.not_rxc h.inv).move (b.cpu ▸ hp), b.cpu ▸ h.noHandler⟩
  case rd2c =>
    exact FgRuns.goesOn ⟨{ h.inv with masked := fun hh => absurd h.noHandler hh, place := trivial }, h.noHandler⟩
  case rd3 => exact readByte_goesOn h hp
  case w1a b =>
    split
    · next hr => exact h.move ⟨hp, hr⟩
    · exact h.move hp
  case w1b b =>
    rw [if_pos hp.2]
    exact FgRuns.goesOn ⟨{ h.inv with place := trivial }, h.noHandler⟩
  case w2 b =>
    have hle := h.inv.tx.count_le
    split
    · exact h.move hp
    · next hfree => exact h.move ⟨hp, lt_of_le_of_ne hle (by simpa [Ring.isFull] using hfree)⟩
  case w3 b =>
    have c := drainOne_beside s
    exact FgRuns.goesOn ⟨(drainOne_keeps_inv h.inv).move (c.cfg ▸ hp), c.cpu ▸ h.noHandler⟩
  case w4 b => exact FgRuns.goesOn ⟨{ h.inv with tx := h.inv.tx.push b, place := hp.1 }, h.noHandler⟩
  case w5 => exact FgRuns.goesOn ⟨{ h.inv with place := trivial }, h.noHandler⟩
  case f1 =>
    split
    · exact h.finish _
    · exact h.move trivial
  case f2 =>
    have c := drainOne_beside s
    exact FgRuns.goesOn ⟨(drainOne_keeps_inv h.inv).move trivial, c.cpu ▸ h.noHandler⟩
  case pump todo k =>
    cases todo with
    | nil => exact pumpGoOn_goesOn h.inv.at_idle h.noHandler hp
    | cons p todo => exact pumpStep_goesOn h hp
  case blArm count on off =>
    obtain ⟨hcount, hon, hoff⟩ := hp
    obtain ⟨-, -, hphase⟩ := h.inv.blink_times
    refine FgRuns.goesOn ⟨?_, h.noHandler⟩
    exact { h.inv with blink_count := hcount, blink_times := ⟨hon, hoff, hphase⟩, place := ⟨trivial, trivial⟩ }

/-! ### Runs -/

/-- Every run of labelled steps and gaps goes on, whatever the schedule holds (R10, R68). -/
theorem runFg_goesOn (n : Nat) {s : State} (h : FgRuns s) : GoesOn (runFg n s) := by
  induction n generalizing s with
  | zero => exact fgStep_goesOn h
  | succ n ih =>
    obtain ⟨t, ht, hruns⟩ := fgStep_goesOn h
    have hserved := serveAll_keeps_fgRuns hruns
    simp only [runFg, ht]
    split
    · exact hruns.goesOn
    · split
      · exact ih (gap_keeps_fgRuns _ ⟨{ hruns.inv with }, hruns.noHandler⟩)
      · split
        · exact hserved.goesOn
        · exact ih hserved

theorem continueFg_goesOn {s : State} (h : FgRuns s) : GoesOn (continueFg s) := runFg_goesOn _ h

/-! ### A handler that runs -/

theorem outerGap_keeps_inv {s : State} (h : Inv s) : Inv (outerGap s) := by
  obtain ⟨-, e⟩ | ⟨g, gs, -, e⟩ := outerGap_cases s <;> rw [e]
  · exact h
  · exact applyMoves_keeps_inv g { h with }

/-- No handler is taken while one runs, so a gap leaves it running, or a reset ends it (R267, R300). -/
theorem outerGap_handler {s : State} {x : Handler} (hx : s.cpu.handler = some x) :
    (outerGap s).cpu.handler = some x ∨ (outerGap s).cpu.handler = none := by
  obtain ⟨-, e⟩ | ⟨g, gs, -, e⟩ := outerGap_cases s <;> rw [e]
  · exact .inl hx
  · exact applyMoves_keeps (P := fun u => u.cpu.handler = some x ∨ u.cpu.handler = none)
      (fun ev u _ hu => (envEvent_beside ev u).cpu ▸ hu) (fun _ _ _ _ => .inr rfl) (fun _ _ _ => .inr rfl) (.inl hx)

/-- Without a reset in the gap the handler still runs after it (R267, R269). -/
theorem outerGap_handler_of_noReset {s : State} {x : Handler} (hx : s.cpu.handler = some x)
    (hr : NoReset (s.env.take 1)) : (outerGap s).cpu.handler = some x := by
  obtain ⟨-, e⟩ | ⟨g, gs, henv, e⟩ := outerGap_cases s <;> rw [e]
  · exact hx
  · refine applyMoves_keeps (P := fun u => u.cpu.handler = some x) (fun ev u _ hu => (envEvent_beside ev u).cpu ▸ hu)
      (fun y u hc hu => ?_) (fun hm => absurd hm (hr g (by simp [henv]))) hx
    obtain ⟨-, hnone, -⟩ := chooseIrq_some hc
    simp [hnone] at hu

/-- R266, R272: a handler's body is performed inside it, its frame waiting if it is ISR_RXC. -/
theorem exec_body {s : State} {x : Handler} (h : Inv s) (hx : s.cpu.handler = some x) :
    exec x.body s = .next (handlerBody x s) := by
  cases x with
  | tov => exact inHandler_eq _ hx
  | dre => exact inHandler_eq _ hx
  | rxc =>
    obtain ⟨f, hf⟩ := Option.ne_none_iff_exists'.1 (h.frame hx)
    refine (inHandler_eq _ hx).trans ?_
    simp [handlerBody, processRx, hf]

/-- R266, R270: a handler still running after the gap completes and returns. -/
theorem step_completes_handler {s : State} {x : Handler} (h : Inv s) (hx : s.cpu.handler = some x)
    (hgap : (outerGap s).cpu.handler = some x) : step s = .next (returnIrq (handlerBody x (outerGap s))) := by
  simp [step, hx, endHandler, Cpu.inIsr, hgap, exec_body (outerGap_keeps_inv h) hgap]

/-- R300: a handler that a reset in the gap has ended is not performed. -/
theorem step_abandons_handler {s : State} {x : Handler} (hx : s.cpu.handler = some x)
    (hgap : (outerGap s).cpu.handler = none) : step s = .next (outerGap s) := by
  simp [step, hx, endHandler, Cpu.inIsr, hgap]

/-- Settles O12: every labelled step goes on and keeps the invariant, and the body of a running handler finds what it
needs. -/
theorem inProgressNeverStops : Obligations.InProgressNeverStops := by
  unfold Obligations.InProgressNeverStops
  intro s h
  refine ⟨fun hn _ => ?_, fun hne hr => ?_, fun hne => ?_⟩
  · obtain ⟨t, ht, -⟩ := continueFg_goesOn ⟨h, hn⟩
    exact ⟨t, ht⟩
  · obtain ⟨x, hx⟩ := Option.ne_none_iff_exists'.1 hne
    exact ⟨_, step_completes_handler h hx (outerGap_handler_of_noReset hx hr), rfl⟩
  · obtain ⟨x, hx⟩ := Option.ne_none_iff_exists'.1 hne
    obtain hgap | hgap := outerGap_handler hx
    · exact ⟨_, step_completes_handler h hx hgap, rfl⟩
    · exact ⟨_, step_abandons_handler hx hgap, hgap⟩

end Sys2Proof.Machine
end

section
/-! SUPPORT. Reset and environment events (R46 to R51, R55): the state after reset, and what the word of an event does. -/

namespace Sys2Proof.Machine

/-- Settles O10: every field of the state after reset has its width and range under admitted parameters. -/
theorem resetInv : Obligations.ResetInv := by
  unfold Obligations.ResetInv
  intro P hP
  exact resetWith_inv hP

/-- Settles O14: the values are read off the state after reset. -/
theorem resetValues : Obligations.ResetValues := by
  unfold Obligations.ResetValues
  intro P
  simp [State.resetWith, Ring.empty, Ring.q, Cpu.inIsr]

/-- R48, R49, R51: the word of an enabled event has the event's effect. -/
theorem environment_enabled {e : EnvEvent} {s : State} (h : e.enabled s = true) : environment e s = .next (e.apply s) :=
  if_pos h

/-- The word of an event that is not enabled is refused (log 27). -/
theorem environment_disabled {e : EnvEvent} {s : State} (h : e.enabled s = false) :
    environment e s = .refused .eventNotEnabled := by
  simp [environment, h]

/-- Settles O54: each event's enabling condition, read as a condition on the hardware. -/
theorem envEvents : Obligations.EnvEvents := by
  unfold Obligations.EnvEvents
  intro data ovf fe v s
  refine ⟨fun h => ?_, fun h => ?_, fun h => ?_, fun h => ?_, fun h hv => ?_, fun h => ?_⟩
  · exact environment_enabled (by simp [EnvEvent.enabled, Periph.rxEmpty, h])
  · exact environment_disabled (by simpa [EnvEvent.enabled, Periph.rxEmpty] using Option.isSome_iff_ne_none.2 h)
  · exact environment_enabled (by simp [EnvEvent.enabled, h])
  · exact environment_disabled (by simp [EnvEvent.enabled, h])
  · exact environment_enabled (by simpa [EnvEvent.enabled, hv] using Option.isSome_iff_ne_none.2 h)
  · exact environment_disabled (by simp [EnvEvent.enabled, h])

end Sys2Proof.Machine
end

section
/-! SUPPORT. The invariant along steps (R21 to R33, R46 to R52): a performed operation, a handler's entry, its body and its
return keep it. -/

namespace Sys2Proof.Machine

/-! ### What a fetched word ensures -/

/-- R104: the decoder answers only operations whose operands are in range. -/
theorem wellFormed_of_decode {P : Params} {bytes rest : List Byte} {i : Instr} (h : decode P bytes = .ok (i, rest)) :
    i.wellFormed P = true := by
  unfold decode at h
  split at h
  · cases h
  · split at h
    · split at h
      · next hw => cases h; exact hw
      · cases h
    · cases h

/-- R91: what is performed is what the issued bytes spell. -/
theorem decode_of_fetch {s : State} {i : Instr} {rest : List Byte} (h : fetch s = .perform i rest) :
    decode s.cfg s.issue = .ok (i, rest) := by
  unfold fetch at h
  split at h
  · split at h <;> cases h
  · split at h
    · next hd =>
      split at h
      · cases h; exact hd
      · cases h
    · split at h <;> cases h

/-- A time operand has at most the width of the clock (R93, log 17). -/
theorem fitsWidth_of_timeFits {P : Params} {t : Nat} (h : P.timeFits t = true) : FitsWidth P.wTime t := by
  have hbits : 8 * P.timeBytes ≤ P.wTime := Nat.mul_div_le P.wTime 8
  exact lt_of_lt_of_le (of_decide_eq_true h) (Nat.pow_le_pow_right Nat.two_pos hbits)

theorem lt_of_indexFits {n i : Nat} (h : indexFits n i = true) : i < n := by
  simp only [indexFits, Bool.and_eq_true, decide_eq_true_eq] at h
  exact h.1

/-! ### Contexts of a state in which no handler runs -/

/-- With no handler running a handler's body is refused (R281). -/
theorem inHandler_ensures_of_noHandler {P : State → Prop} {x : Handler} {s : State} (a : Answer)
    (hn : s.cpu.handler = none) : Ensures P (inHandler x s a) :=
  (ensures_iff P _).2 fun t e => by
    obtain ⟨hx, -⟩ := inHandler_next e
    simp [hn] at hx

/-- With no handler running a ring operation is performed between operations only (R281, R129). -/
theorem inRingContext_ensures_of_noHandler {P : State → Prop} {hs : List Handler} {s : State} {a : Answer}
    (hn : s.cpu.handler = none) (h : s.fg = .idle → Ensures P a) : Ensures P (inRingContext hs s a) :=
  (ensures_iff P _).2 fun t e => by
    obtain ⟨ha, ⟨x, -, hx⟩ | ⟨-, hidle, -⟩⟩ := inRingContext_next e
    · simp [hn] at hx
    · exact (ensures_iff P _).1 (h hidle) t ha

/-! ### Updates that operations make -/

/-- The foreground's operation ends, whatever its result (R94). -/
theorem Inv.finish {s : State} (h : Inv { s with fg := .idle }) (r : Result) : Inv (finish r s) := { h with }

theorem GoesOn.ensures_inv {a : Answer} (h : GoesOn a) : Ensures Inv a := by
  obtain ⟨t, rfl, ht⟩ := h
  exact ht.inv

theorem deliver_keeps_inv (r : Result) {s : State} (h : Inv s) : Inv (deliver r s) := by
  unfold deliver
  split <;> exact { h with place := h.place_beside .of_same }

theorem Inv.ring {s : State} (h : Inv s) (r : RingSel) : RingOk (capacity s.cfg r) (s.ring r) := by
  cases r with
  | rx => exact h.rx
  | tx => exact h.tx

theorem withRing_keeps_inv {s : State} {R : Ring} {r : RingSel} (h : Inv s) (hidle : s.fg = .idle)
    (hR : RingOk (capacity s.cfg r) R) : Inv (s.withRing R r) := by
  have hplace : FgOk (s.withRing R r) := by cases r <;> simp [FgOk, State.withRing, hidle]
  cases r with
  | rx => exact { h with rx := hR, place := hplace }
  | tx => exact { h with tx := hR, place := hplace }

theorem RingOk.cleared {n : Nat} {R : Ring} (h : RingOk n R) : RingOk n R.cleared where
  slots := h.slots
  count_le := Nat.zero_le n
  head_lt := Nat.pos_of_ne_zero
  tail_eq _ := (Nat.zero_mod n).symm

theorem constructPort_keeps_inv {baud : BitVec 32} {async : Bool} {s : State} (h : Inv { s with fg := .idle })
    (hb : baud ≠ 0) : Inv { constructPort baud async s with fg := .idle } := by
  obtain ⟨-, hboot, -⟩ := Params.valid_pos h.params
  have hpos : 0 < baud.toNat := Nat.pos_of_ne_zero fun hz => hb (BitVec.eq_of_toNat_eq hz)
  exact { h with rx := h.rx.cleared, tx := h.tx.cleared, loss := Nat.two_pow_pos _, baud := hpos, progress := hboot }

/-- R211: a conversion begins on a channel of the list. -/
theorem beginConversion_keeps_inv {cur : Nat} (c : Nat) {s : State} (h : Inv { s with fg := .idle })
    (hcur : cur < s.cfg.channels.length) :
    Inv { beginConversion c { s with adc := { s.adc with cur := cur } } with fg := .idle } :=
  { h with adc_cur := hcur, adc_idle := fun hp => Bool.noConfusion hp, adc_flight := fun _ => rfl }

theorem startConversion_keeps_inv {s : State} (r : Result) (h : Inv { s with fg := .idle }) :
    Ensures Inv (withResult r (startConversion s)) := by
  cases e : startConversion s with
  | fault | refused => trivial
  | next t =>
    obtain ⟨-, c, -, rfl⟩ := startConversion_next e
    exact (beginConversion_keeps_inv c.ch h h.adc_cur).finish r

theorem startNextConversion_keeps_inv {s : State} (r : Result) (h : Inv { s with fg := .idle }) :
    Ensures Inv (withResult r (startNextConversion s)) := by
  cases e : startNextConversion s with
  | fault | refused => trivial
  | next t =>
    obtain ⟨-, c, -, rfl⟩ := startNextConversion_next e
    exact (beginConversion_keeps_inv c.ch h (Nat.mod_lt _ (Nat.zero_lt_of_lt h.adc_cur))).finish r

theorem sampleOf_keeps_inv (c : Nat) {s : State} (h : Inv { s with fg := .idle }) : Ensures Inv (sampleOf c s) := by
  unfold sampleOf
  split
  · exact h.finish _
  · trivial
  · trivial

theorem environment_keeps_inv (e : EnvEvent) {s : State} (h : Inv s) : Ensures Inv (environment e s) := by
  unfold environment
  split
  · next he => exact envEvent_keeps_inv he h
  · trivial

theorem tickMany_keeps_inv (n : Nat) {s : State} (h : Inv s) : Inv (tickMany n s) :=
  tickMany_keeps (fun _ hu => envEvent_keeps_inv (e := .tick) rfl hu) (fun _ _ hc hu => runHandler_keeps_inv hc hu) n h

/-- A composite operation starts at a label that fits the state (R10). -/
theorem startAt_keeps_inv {l : Fg} {s : State} (h : FgRuns s) (hl : FgOk { s with fg := l }) :
    Ensures Inv (startAt l s) :=
  (continueFg_goesOn ⟨h.inv.move hl, h.noHandler⟩).ensures_inv

/-! ### Operations -/

/-- Every operation whose operands are in range keeps the invariant where no handler runs. -/
theorem exec_keeps_inv {i : Instr} {s : State} (h : FgRuns s) (hw : i.wellFormed s.cfg = true) :
    Ensures Inv (exec i s) := by
  have hidle := h.inv.at_idle
  cases i with
  | rbPush r v =>
    refine inRingContext_ensures_of_noHandler h.noHandler fun hf => ?_
    exact deliver_keeps_inv _ (withRing_keeps_inv h.inv hf ((h.inv.ring r).push v))
  | rbPop r =>
    refine inRingContext_ensures_of_noHandler h.noHandler fun hf => ?_
    obtain ⟨-, e⟩ | ⟨hc, e⟩ := ringPop_cases (capacity s.cfg r) (s.ring r) <;> rw [e]
    · trivial
    · exact deliver_keeps_inv _ (withRing_keeps_inv h.inv hf ((h.inv.ring r).pop hc))
  | rbTop r =>
    refine inRingContext_ensures ?_
    obtain ⟨-, e⟩ | ⟨-, e⟩ := ringTop_cases (s.ring r) <;> rw [e]
    · trivial
    · exact deliver_keeps_inv _ h.inv
  | rbEmpty | rbFull | rbSize => exact inRingContext_ensures (deliver_keeps_inv _ h.inv)
  | btfCheck b => exact inRingContext_ensures (deliver_keeps_inv _ (filterByte_keeps_inv b h.inv))
  | clkProcess | spIntrRx | spIntrTx => exact inHandler_ensures_of_noHandler _ h.noHandler
  | clkNow => exact inForeground_ensures (startAt_keeps_inv h ⟨trivial, trivial⟩)
  | dlNew d duration =>
    simp only [Instr.wellFormed, Bool.and_eq_true] at hw
    refine inForeground_ensures ?_
    split
    · next hd =>
      have hlt := (List.getElem?_eq_some_iff.1 hd).1
      exact startAt_keeps_inv h ⟨trivial, hlt, fitsWidth_of_timeFits hw.2⟩
    · trivial
  | dlElapsed d =>
    refine inForeground_ensures ?_
    split
    · next hd =>
      have hlt := (List.getElem?_eq_some_iff.1 hd).1
      split
      · split
        · exact hidle.finish _
        · exact startAt_keeps_inv h ⟨trivial, hlt⟩
      · trivial
    · trivial
  | dlRestart | swElapsedTime =>
    refine inForeground_ensures ?_
    split
    · next hd =>
      have hlt := (List.getElem?_eq_some_iff.1 hd).1
      split
      · exact startAt_keeps_inv h ⟨trivial, hlt⟩
      · trivial
    · trivial
  | dlCancel d =>
    refine inForeground_ensures ?_
    split
    · next D hd =>
      have hD : DeadlineOk s.cfg { D with cancelled := true } := h.inv.dl_fields D (List.mem_of_getElem? hd)
      exact (setDeadline_goesOn h hD).ensures_inv
    · trivial
  | swNew w =>
    refine inForeground_ensures ?_
    split
    · next hd => exact startAt_keeps_inv h ⟨trivial, (List.getElem?_eq_some_iff.1 hd).1⟩
    · trivial
  | spInit baud async =>
    refine inForeground_ensures ?_
    split
    · trivial
    · next hb =>
      split
      · trivial
      · exact (constructPort_keeps_inv hidle hb).finish _
  | spEmpty | spTxEmpty | spTxReady | spOverflow => exact inForeground_ensures (hidle.finish _)
  | spClearOverflow => exact inForeground_ensures { hidle with loss := Nat.two_pow_pos _ }
  | spRead | spFlush => exact inForeground_ensures (startAt_keeps_inv h trivial)
  | spWrite b =>
    refine inForeground_ensures (startAt_keeps_inv h ?_)
    split <;> assumption
  | spProcessRx => exact inForeground_ensures ((processRx_keeps_inv h.not_rxc h.inv).at_idle.finish _)
  | spProcessTx => exact inForeground_ensures ((drainOne_keeps_inv h.inv).at_idle.finish _)
  | adcProcess =>
    refine inForeground_ensures ?_
    obtain ⟨hr, e⟩ | ⟨-, e⟩ := adcPoll_cases s <;> rw [e]
    · exact (storeSample_keeps_inv hr hidle).finish _
    · exact hidle.finish _
  | adcValue | adcValueOf => exact inForeground_ensures (sampleOf_keeps_inv _ hidle)
  | adcStart => exact inForeground_ensures (startConversion_keeps_inv _ hidle)
  | adcNext => exact inForeground_ensures (startNextConversion_keeps_inv _ hidle)
  | cfPushData b =>
    refine inForeground_ensures ?_
    split
    · next hst =>
      split
      · exact startAt_keeps_inv h ⟨trivial, hst⟩
      · exact hidle.finish _
    · next hst => exact startAt_keeps_inv h ⟨trivial, hst⟩
  | cfPayload c =>
    refine inForeground_ensures ?_
    split
    · split
      · exact hidle.finish _
      · trivial
    · trivial
  | blSignal count on off =>
    simp only [Instr.wellFormed, Bool.and_eq_true] at hw
    obtain ⟨⟨hcount, hon⟩, hoff⟩ := hw
    exact inForeground_ensures
      (startAt_keeps_inv h ⟨lt_of_indexFits hcount, fitsWidth_of_timeFits hon, fitsWidth_of_timeFits hoff⟩)
  | blProcess =>
    refine inForeground_ensures ?_
    split
    · exact hidle.finish _
    · next hne => exact startAt_keeps_inv h ⟨trivial, hne⟩
  | pump => exact inForeground_ensures (startAt_keeps_inv h (fgOk_pump (adcNext_notMem_pumpAll _) trivial))
  | wait duration => exact inForeground_ensures (startAt_keeps_inv h ⟨trivial, fitsWidth_of_timeFits hw⟩)
  | cli => exact inForeground_ensures { hidle with masked := fun _ => rfl }
  | sei => exact inForeground_ensures { hidle with masked := fun hne => absurd h.noHandler hne }
  | envTick n => exact tickMany_keeps_inv n h.inv
  | envRx | envTxDone | envAdcDone => exact environment_keeps_inv _ h.inv
  | envReset => exact hardwareReset_inv h.inv.params

/-! ### Handlers -/

/-- The place of the foreground depends on the processor state only between RD2a and RD2c (R70), where no handler runs and
interrupts are off. -/
theorem FgOk.with_cpu {s : State} (c : Cpu) (h : FgOk s) (hc : ¬(s.cpu.gie = false ∧ s.cpu.handler = none)) :
    FgOk { s with cpu := c } := by
  unfold FgOk at *
  cases hf : s.fg <;> rw [hf] at h
  case rd2b | rd2c => exact absurd h hc
  case now ph k =>
    obtain ⟨hph, hk⟩ := h
    refine ⟨hph, ?_⟩
    cases k <;> exact hk
  all_goals exact h

/-- R267: a handler is entered with interrupts off, and ISR_RXC with its frame waiting. -/
theorem takeIrq_keeps_inv {x : Handler} {s : State} (hc : chooseIrq s = some x) (h : Inv s) : Inv (takeIrq x s) := by
  obtain ⟨hgie, -, hreq⟩ := chooseIrq_some hc
  have hplace : FgOk { s with cpu := { gie := false, handler := some x } } := h.place.with_cpu _ (by simp [hgie])
  refine { h with masked := fun _ => rfl, frame := fun hx => ?_, place := hplace }
  cases hx
  have hwaits : s.cfg.rxIrq = true ∧ s.hw.rxFrame.isSome = true := by simpa [State.request, Periph.rxEmpty] using hreq
  exact Option.isSome_iff_ne_none.1 hwaits.2

theorem enterHandler_keeps_inv {s : State} (h : Inv s) : Inv (enterHandler s) := by
  obtain ⟨-, e⟩ | ⟨x, hc, e⟩ := enterHandler_cases s <;> rw [e]
  · exact h
  · exact takeIrq_keeps_inv hc h

/-- R266, R270: a handler's body and its return. -/
theorem finishHandler_keeps_inv {x : Handler} {s : State} (h : Inv s) (hx : s.cpu.handler = some x) :
    Inv (returnIrq (handlerBody x s)) := by
  have hreturn : Inv (returnIrq s) :=
    { h with
      masked := fun hn => absurd rfl hn, frame := fun hr => (nomatch hr), place := h.place.with_cpu _ (by simp [hx]) }
  have hcommute : returnIrq (handlerBody x s) = handlerBody x (returnIrq s) := (handlerBody_cpu x _ s).symm
  rw [hcommute]
  exact handlerBody_keeps_inv x (by simp) hreturn

/-- Settles O11: each of the six cases of a step is made of moves that keep the invariant. -/
theorem stepKeepsInv : Obligations.StepKeepsInv := by
  unfold Obligations.StepKeepsInv
  intro s t h e
  have hgap := outerGap_keeps_inv h
  obtain ⟨x, u, hx, hne, hu, rfl⟩ | ⟨-, -, rfl⟩ | ⟨-, -, rfl⟩ | ⟨-, -, -, rfl⟩ | ⟨hn, -, -, hgo⟩ |
    ⟨i, rest, hn, -, hf, hi⟩ := step_cases e
  · have hrun : (outerGap s).cpu.handler = some x := (outerGap_handler hx).resolve_right hne
    obtain rfl : handlerBody x (outerGap s) = u := by simpa [exec_body hgap hrun] using hu
    exact finishHandler_keeps_inv hgap hrun
  · exact hgap
  · exact enterHandler_keeps_inv hgap
  · exact h
  · exact (ensures_iff Inv _).1 (continueFg_goesOn ⟨h, hn⟩).ensures_inv t hgo
  · have hrest : FgRuns { s with issue := rest } := ⟨{ h with }, hn⟩
    have hw : i.wellFormed s.cfg = true := wellFormed_of_decode (decode_of_fetch hf)
    exact (ensures_iff Inv _).1 (exec_keeps_inv hrest hw) t hi

end Sys2Proof.Machine
end

section
/-! SUPPORT. The frame of every handler body (R136, R185, R187): which fields the receive and the transmit path may write. -/

namespace Sys2Proof.Machine

/-! ### The receive path -/

theorem filterByte_frame (b : Byte) (s : State) :
    filterByte b s = { s with sp := (filterByte b s).sp, bootRequest := (filterByte b s).bootRequest } := by
  obtain ⟨p, -, ⟨-, e⟩ | ⟨-, e⟩⟩ := filterByte_cases b s <;> rw [e]

theorem bufferByte_frame (b : Byte) (s : State) :
    bufferByte b s = { s with
      sp := (bufferByte b s).sp, bootRequest := (bufferByte b s).bootRequest, past := (bufferByte b s).past } := by
  obtain ⟨-, e⟩ | ⟨-, e⟩ := bufferByte_cases b s <;> rw [e, filterByte_frame]
  rfl

theorem takeFrame_frame (f : Frame) (s : State) :
    takeFrame f s = { s with
      sp := (takeFrame f s).sp, past := (takeFrame f s).past, hw := { s.hw with rxFrame := none } } := by
  obtain ⟨-, e⟩ | ⟨-, e⟩ := takeFrame_cases f s <;> rw [e]
  rfl

theorem intrRx_frame (f : Frame) (s : State) :
    intrRx f s = { s with
      sp := (intrRx f s).sp, bootRequest := (intrRx f s).bootRequest, isrResult := (intrRx f s).isrResult,
      past := (intrRx f s).past, hw := { s.hw with rxFrame := none } } := by
  obtain ⟨-, e⟩ | ⟨-, e⟩ := intrRx_cases f s
  · rw [e, takeFrame_frame]; rfl
  · rw [e, bufferByte_frame, takeFrame_frame]

theorem processRx_frame (s : State) :
    processRx s = { s with
      sp := (processRx s).sp, bootRequest := (processRx s).bootRequest, isrResult := (processRx s).isrResult,
      past := (processRx s).past, hw := { s.hw with rxFrame := none } } := by
  obtain ⟨hnone, e⟩ | ⟨f, -, e⟩ := processRx_cases s <;> rw [e]
  · rw [← hnone]
  · exact intrRx_frame f s

/-! ### The transmit path -/

theorem drainOne_frame (s : State) :
    drainOne s = { s with
      sp := (drainOne s).sp, lineOut := (drainOne s).lineOut, hw := { s.hw with txEmpty := (drainOne s).hw.txEmpty } } := by
  obtain ⟨e, -⟩ | ⟨-, -, e⟩ := drainOne_cases s <;> rw [e]
  rfl

theorem intrTx_frame (s : State) :
    intrTx s = { s with
      sp := (intrTx s).sp, lineOut := (intrTx s).lineOut,
      hw := { s.hw with txEmpty := (intrTx s).hw.txEmpty, dreIe := (intrTx s).hw.dreIe } } := by
  obtain ⟨-, e⟩ | ⟨-, e⟩ := intrTx_cases s <;> rw [e, drainOne_frame]

/-- R187: the DRE interrupt is disarmed, or the transmitter is busy or the ring was empty. -/
theorem intrTx_clears_request (s : State) : ((intrTx s).hw.dreIe && (intrTx s).hw.txEmpty) = false := by
  obtain ⟨-, e⟩ | ⟨hne, e⟩ := intrTx_cases s
  · simp [e]
  · obtain ⟨hd, hready | hempty⟩ | ⟨-, -, hd⟩ := drainOne_cases s
    · simp [e, hd, hready]
    · exact absurd (hd.symm ▸ hempty) hne
    · simp [e, hd]

end Sys2Proof.Machine
end

section
/-! SUPPORT. Prompt service and the clock (R46, R47, R100, R268): service leaves no request true, and the clock counts every
tick. -/

namespace Sys2Proof.Machine

/-! ### Prompt service -/

/-- R268: a handler makes its own request false and changes no other. -/
theorem request_runHandler (x y : Handler) (s : State) : (runHandler x s).request y = (s.request y && y != x) := by
  rw [runHandler_eq]
  cases x with
  | tov => cases y <;> simp [handlerBody, State.request, Periph.rxEmpty]
  | rxc =>
    simp only [handlerBody]
    rw [processRx_frame]
    cases y with
    | tov => rfl
    | rxc | dre => simp [State.request, Periph.rxEmpty]
  | dre =>
    have hclear := intrTx_clears_request (returnIrq (takeIrq .dre s))
    simp only [handlerBody]
    cases y with
    | tov => rw [intrTx_frame]; rfl
    | rxc => rw [intrTx_frame]; simp [State.request, Periph.rxEmpty]
    | dre => simpa [State.request] using hclear

theorem requests_runHandler (x : Handler) (s : State) : (runHandler x s).requests = s.requests.filter (· != x) := by
  have hrequest : (runHandler x s).request = fun y => y != x && s.request y :=
    funext fun y => (request_runHandler x y s).trans (Bool.and_comm ..)
  simp only [State.requests, hrequest, List.filter_filter]

theorem runHandler_cpu (x : Handler) (s : State) : (runHandler x s).cpu = { gie := true, handler := none } := rfl

/-- One round of service makes one request false, where one is true (R268). -/
theorem serve_requests {s : State} (h : s.mayTake = true) :
    (serve s).mayTake = true ∧ (serve s).requests.length ≤ s.requests.length - 1 := by
  obtain ⟨hc, e⟩ | ⟨x, hc, e⟩ := serve_cases s <;> rw [e]
  · have hnone : s.requests = [] := ((chooseIrq_none s).1 hc).resolve_left (by simp [h])
    simp [h, hnone]
  · obtain ⟨-, -, hreq⟩ := chooseIrq_some hc
    have hless : (s.requests.filter (· != x)).length < s.requests.length :=
      List.length_filter_lt_length_iff_exists.2 ⟨x, (mem_requests s x).2 hreq, by simp⟩
    rw [requests_runHandler]
    exact ⟨by simp [State.mayTake, Cpu.inIsr, runHandler_cpu], Nat.le_sub_one_of_lt hless⟩

/-- R268: three rounds serve the three sources. -/
theorem serveAll_requests {s : State} (h : s.mayTake = true) :
    (serveAll s).mayTake = true ∧ (serveAll s).requests = [] := by
  obtain ⟨h1, l1⟩ := serve_requests h
  obtain ⟨h2, l2⟩ := serve_requests h1
  obtain ⟨h3, l3⟩ := serve_requests h2
  have hthree : s.requests.length ≤ 3 := List.length_filter_le ..
  have hzero : (serve (serve (serve s))).requests.length = 0 := by omega
  exact ⟨h3, List.eq_nil_of_length_eq_zero hzero⟩

/-- R267: where no handler may run, service does nothing. -/
theorem serveAll_eq_self {s : State} (h : s.mayTake = false) : serveAll s = s := by
  have hserve : serve s = s := by simp [serve, (chooseIrq_none s).2 (.inl h)]
  simp [serveAll, hserve]

/-! ### Ticks with no handler -/

/-- R100: where no handler may run, a tick of several is the first of the rest. -/
theorem tickMany_succ {s : State} (n : Nat) (h : s.mayTake = false) : tickMany (n + 1) s = tickMany n (counterTick s) := by
  have hsame : serveAll (counterTick s) = counterTick s := serveAll_eq_self h
  cases n with
  | zero => rfl
  | succ n => simp [tickMany, hsame]

/-- R46, R47: the counter after `n` ticks, and whether it has wrapped. -/
theorem tickMany_masked (n : Nat) {s : State} (h : s.mayTake = false) (hc : s.hw.cnt < 2 ^ s.cfg.wCnt) :
    tickMany n s = { s with
      hw := { s.hw with cnt := (s.hw.cnt + n) % 2 ^ s.cfg.wCnt,
                        tovPending := s.hw.tovPending || decide (2 ^ s.cfg.wCnt ≤ s.hw.cnt + n) }
      ticks := s.ticks + n } := by
  induction n generalizing s with
  | zero => simp [tickMany, Nat.mod_eq_of_lt hc, Nat.not_le.2 hc]
  | succ n ih =>
    have hcount : ((counterTick s).hw.cnt + n) % 2 ^ s.cfg.wCnt = (s.hw.cnt + (n + 1)) % 2 ^ s.cfg.wCnt := by
      simp [addMod, Nat.add_assoc, Nat.add_comm 1 n]
    have hwrap : ((counterTick s).hw.tovPending || decide (2 ^ s.cfg.wCnt ≤ (counterTick s).hw.cnt + n)) =
        (s.hw.tovPending || decide (2 ^ s.cfg.wCnt ≤ s.hw.cnt + (n + 1))) := by
      obtain hlt | heq := Nat.lt_or_eq_of_le (Nat.succ_le_of_lt hc)
      · simp [addMod, Nat.mod_eq_of_lt hlt, Nat.add_assoc, Nat.add_comm 1 n]
      · simp [addMod, ← heq]
    rw [tickMany_succ n h, ih (s := counterTick s) h (fitsWidth_addMod _ _ _)]
    congr 1
    · exact congrArg₂ (fun c p => { s.hw with cnt := c, tovPending := p }) hcount hwrap
    · simp only [counterTick_ticks, Nat.add_assoc, Nat.add_comm 1 n]

/-! ### Ticks with interrupts on -/

/-- The clock of the block stands at tick `n` of the parameters `P`, where an overflow that is pending counts as taken, and
interrupts may be taken (R139, R268). -/
structure Counts (P : Params) (n : Nat) (s : State) : Prop where
  cfg : s.cfg = P
  ticks : s.ticks = n
  free : s.mayTake = true
  counter : s.hw.cnt = n % 2 ^ P.wCnt
  tally : (if s.hw.tovPending then addMod P.wOvf s.clk.tally 1 else s.clk.tally) = n / 2 ^ P.wCnt % 2 ^ P.wOvf

/-- With no overflow pending the clock is in step with the ticks (premise (c) of R139). -/
theorem Counts.synced {P : Params} {n : Nat} {s : State} (h : Counts P n s) (hp : s.hw.tovPending = false) : Synced s := by
  obtain ⟨rfl, rfl, -, hcounter, htally⟩ := h
  exact ⟨hcounter, by simpa [hp] using htally, hp⟩

theorem Synced.counts {s : State} (h : Synced s) (hm : s.mayTake = true) : Counts s.cfg s.ticks s :=
  ⟨rfl, rfl, hm, h.counter, by simpa [h.none_pending] using h.tally⟩

/-- R47: a tick that wraps the counter makes the overflow pending, any other leaves the tally right. -/
theorem Synced.counterTick_counts {s : State} (h : Synced s) (hm : s.mayTake = true) :
    Counts s.cfg (s.ticks + 1) (counterTick s) := by
  have hcounter : addMod s.cfg.wCnt s.hw.cnt 1 = (s.ticks + 1) % 2 ^ s.cfg.wCnt := by
    simp [addMod, h.counter]
  refine ⟨rfl, rfl, hm, hcounter, ?_⟩
  simp only [counterTick_hw, counterTick_clk, hcounter, h.none_pending, Bool.false_or, beq_iff_eq, Nat.succ_div,
    Nat.dvd_iff_mod_eq_zero]
  split
  · simp [addMod, h.tally]
  · exact h.tally

/-- R136, R266: ISR_TOV counts the overflow it takes; the other bodies leave the clock alone. -/
theorem runHandler_keeps_counts {P : Params} {n : Nat} {x : Handler} {s : State} (hc : chooseIrq s = some x)
    (h : Counts P n s) : Counts P n (runHandler x s) := by
  obtain ⟨-, -, hreq⟩ := chooseIrq_some hc
  obtain ⟨hcfg, hticks, -, hcounter, htally⟩ := h
  have hfree : (runHandler x s).mayTake = true := by simp [State.mayTake, Cpu.inIsr, runHandler_cpu]
  rw [runHandler_eq] at *
  cases x with
  | tov =>
    have hpending : s.hw.tovPending = true := hreq
    exact ⟨hcfg, hticks, hfree, hcounter, by simpa [handlerBody, hpending, hcfg] using htally⟩
  | rxc =>
    simp only [handlerBody] at *
    rw [processRx_frame] at *
    exact ⟨hcfg, hticks, hfree, hcounter, by simpa using htally⟩
  | dre =>
    simp only [handlerBody] at *
    rw [intrTx_frame] at *
    exact ⟨hcfg, hticks, hfree, hcounter, by simpa using htally⟩

/-- Prompt service brings the clock in step with the ticks (R139, R268). -/
theorem Counts.after_service {P : Params} {n : Nat} {s : State} (h : Counts P n s) :
    Counts P n (serveAll s) ∧ Synced (serveAll s) := by
  have hserved : Counts P n (serveAll s) := serveAll_keeps (fun _ _ hc hu => runHandler_keeps_counts hc hu) h
  obtain ⟨-, hnone⟩ := serveAll_requests h.free
  have hpending : (serveAll s).request .tov = false := by
    simpa [hnone] using mem_requests (serveAll s) .tov
  exact ⟨hserved, hserved.synced hpending⟩

/-- R100: the overflow of each tick is served before the next tick. -/
theorem tickMany_counts (n : Nat) {s : State} (h : Synced s) (hm : s.mayTake = true) :
    Counts s.cfg (s.ticks + n) (tickMany n s) := by
  induction n, s using tickMany.induct with
  | case1 s => exact h.counts hm
  | case2 s => exact h.counterTick_counts hm
  | case3 n s ih =>
    obtain ⟨hserved, hsynced⟩ := (h.counterTick_counts hm).after_service
    have hrest := ih hsynced hserved.free
    have hsum : s.ticks + 1 + (n + 1) = s.ticks + (n + 2) := by omega
    rw [hserved.cfg, hserved.ticks, hsum] at hrest
    exact hrest

/-- Settles O53: by induction on the ticks, with no handler between them and with prompt service between them. -/
theorem envTick : Obligations.EnvTick := by
  unfold Obligations.EnvTick
  intro n s
  refine ⟨fun hm hc => ?_, fun _ hm hs => ?_⟩
  · exact congrArg Host.Outcome.next (tickMany_masked n hm hc)
  · have hcounts := tickMany_counts n hs hm
    exact ⟨tickMany n s, rfl, hcounts.ticks, hcounts.after_service.2⟩

end Sys2Proof.Machine
end

section
/-! SUPPORT. Components and their owners (R20, R29 to R33, R231, R244): an operation writes only the components that are its
own, and what happens beside the foreground writes none of them. -/

namespace Sys2Proof.Machine

/-- The components whose state only their own operations write (R29 to R33). -/
inductive Component where
  | framer
  | deadlines
  | stopwatches
  | scanner
  | blinker

/-- The operation may write the component: the lists of Safety.lean, by component. -/
def opWrites (i : Instr) : Component → Bool
  | .framer => writesFramer i
  | .deadlines => writesDeadlines i
  | .stopwatches => writesStopwatches i
  | .scanner => writesScanner i
  | .blinker => writesBlinker i

/-- A `PUMP` may write the component (R250). -/
def pumpWrites : Component → Bool
  | .scanner | .blinker => true
  | .framer | .deadlines | .stopwatches => false

/-- The operation that reads the clock may write the component, from here to its end. -/
def AfterNow.writes (k : AfterNow) (c : Component) : Bool :=
  match k with
  | .clkNow | .dlElapsed _ | .swElapsed _ => false
  | .dlNew _ _ | .dlRestart _ => (c matches .deadlines)
  | .swNew _ => (c matches .stopwatches)
  | .cfArm | .cfPayload _ => (c matches .framer)
  | .blSignal | .blProcess => (c matches .blinker)
  | .pumpBlink _ _ | .waitBase _ | .waitTest _ _ => pumpWrites c

/-- The operation inside which the foreground stands may write the component, from here to its end. -/
def Fg.writes (l : Fg) (c : Component) : Bool :=
  match l with
  | .now _ k => k.writes c
  | .pump _ _ => pumpWrites c
  | .blArm _ _ _ => (c matches .blinker)
  | .idle | .rd1 | .rd2a | .rd2b | .rd2c | .rd3 | .w1a _ | .w1b _ | .w2 _ | .w3 _ | .w4 _ | .w5 | .f1 | .f2 => false

/-- From `s` to `t` the component `c` is left alone: its state is the same, no reset is newly scheduled, and the foreground
is not newly inside an operation that may write `c`. -/
structure Spares (c : Component) (s t : State) : Prop where
  noReset : NoReset s.env → NoReset t.env := by exact id
  place : s.fg.writes c = false → t.fg.writes c = false := by exact id
  framer : c = .framer → t.cf = s.cf := by exact fun _ => rfl
  deadlines : c = .deadlines → t.dl = s.dl := by exact fun _ => rfl
  stopwatches : c = .stopwatches → t.sw = s.sw := by exact fun _ => rfl
  scanner : c = .scanner → t.adc = s.adc := by exact fun _ => rfl
  blinker : c = .blinker → t.bl = s.bl := by exact fun _ => rfl

namespace Spares

theorem refl (c : Component) (s : State) : Spares c s s := {}

theorem trans {c : Component} {s t u : State} (h : Spares c s t) (k : Spares c t u) : Spares c s u where
  noReset hs := k.noReset (h.noReset hs)
  place hs := k.place (h.place hs)
  framer e := (k.framer e).trans (h.framer e)
  deadlines e := (k.deadlines e).trans (h.deadlines e)
  stopwatches e := (k.stopwatches e).trans (h.stopwatches e)
  scanner e := (k.scanner e).trans (h.scanner e)
  blinker e := (k.blinker e).trans (h.blinker e)

end Spares

section
variable {c : Component}

theorem finish_spares (r : Result) (s : State) : Spares c s (finish r s) := { place := fun _ => rfl }

/-! ### Beside the foreground -/

theorem processRx_spares (s : State) : Spares c s (processRx s) := by
  rw [processRx_frame]
  exact {}

theorem intrRx_spares (f : Frame) (s : State) : Spares c s (intrRx f s) := by
  rw [intrRx_frame]
  exact {}

theorem drainOne_spares (s : State) : Spares c s (drainOne s) := by
  rw [drainOne_frame]
  exact {}

theorem intrTx_spares (s : State) : Spares c s (intrTx s) := by
  rw [intrTx_frame]
  exact {}

theorem handlerBody_spares (x : Handler) (s : State) : Spares c s (handlerBody x s) := by
  cases x with
  | tov => exact {}
  | rxc => exact processRx_spares s
  | dre => exact intrTx_spares s

theorem runHandler_spares (x : Handler) (s : State) : Spares c s (runHandler x s) := by
  have hentry : Spares c s (returnIrq (takeIrq x s)) := {}
  rw [runHandler_eq]
  exact hentry.trans (handlerBody_spares x _)

theorem envEvent_spares (e : EnvEvent) (s : State) : Spares c s (e.apply s) := by
  cases e <;> exact {}

/-! ### Updates of a component -/

/-- R242: the blink signaller alone. -/
theorem blinkAt_spares (hc : c ≠ .blinker) (t : Nat) (s : State) : Spares c s (blinkAt t s) := by
  obtain e | ⟨-, e⟩ | ⟨-, e⟩ := blinkAt_cases t s <;> rw [e] <;> exact { blinker := fun h => absurd h hc }

/-- R212: the scanner alone. -/
theorem adcPoll_spares (hc : c ≠ .scanner) (s : State) : Spares c s (adcPoll s).1 := by
  obtain ⟨-, e⟩ | ⟨-, e⟩ := adcPoll_cases s <;> rw [e] <;> exact { scanner := fun h => absurd h hc }

/-- R211: the scanner alone. -/
theorem startConversion_spares (hc : c ≠ .scanner) (s : State) : Ensures (Spares c s) (startConversion s) :=
  (ensures_iff _ _).2 fun t e => by
    obtain ⟨-, k, -, rfl⟩ := startConversion_next e
    exact { scanner := fun h => absurd h hc }

/-- R214: the scanner alone. -/
theorem startNextConversion_spares (hc : c ≠ .scanner) (s : State) : Ensures (Spares c s) (startNextConversion s) :=
  (ensures_iff _ _).2 fun t e => by
    obtain ⟨-, k, -, rfl⟩ := startNextConversion_next e
    exact { scanner := fun h => absurd h hc }

/-- A `PUMP` may write the scanner and the blink signaller. -/
theorem ne_of_pumpWrites (h : pumpWrites c = false) : c ≠ .scanner ∧ c ≠ .blinker := by
  cases c <;> simp [pumpWrites] at h ⊢

/-! ### Labelled steps -/

theorem pumpGoOn_spares (hc : pumpWrites c = false) (todo : List PumpPart) (k : AfterPump) (s : State) :
    Spares c s (pumpGoOn todo k s) := by
  cases todo with
  | nil =>
    cases k with
    | ret => exact finish_spares _ s
    | wait base duration => exact { place := fun _ => hc }
  | cons p ps => exact { place := fun _ => hc }

theorem afterNow_spares {k : AfterNow} (hk : k.writes c = false) (t : Nat) (s : State) :
    Ensures (Spares c s) (afterNow t k s) := by
  cases k with
  | clkNow => exact finish_spares _ s
  | dlNew d duration => exact { place := fun _ => rfl, deadlines := fun e => by subst e; cases hk }
  | dlElapsed d =>
    simp only [afterNow]
    cases s.dl[d]? with
    | none => trivial
    | some D => exact finish_spares _ s
  | dlRestart d =>
    simp only [afterNow]
    cases s.dl[d]? with
    | none => trivial
    | some D => exact { place := fun _ => rfl, deadlines := fun e => by subst e; cases hk }
  | swNew w => exact { place := fun _ => rfl, stopwatches := fun e => by subst e; cases hk }
  | swElapsed w =>
    simp only [afterNow]
    cases s.sw[w]? with
    | none => trivial
    | some W => exact finish_spares _ s
  | cfArm => exact { place := fun _ => rfl, framer := fun e => by subst e; cases hk }
  | cfPayload b =>
    simp only [afterNow, takePayload]
    split <;> exact { place := fun _ => rfl, framer := fun e => by subst e; cases hk }
  | blSignal => exact { place := fun _ => rfl, blinker := fun e => by subst e; cases hk }
  | blProcess =>
    have hc : c ≠ .blinker := fun e => by subst e; cases hk
    exact (blinkAt_spares hc t s).trans (finish_spares _ _)
  | pumpBlink todo k => exact (blinkAt_spares (ne_of_pumpWrites hk).2 t s).trans (pumpGoOn_spares hk todo k _)
  | waitBase duration => exact { place := fun _ => hk }
  | waitTest base duration =>
    simp only [afterNow]
    split
    · exact finish_spares _ s
    · exact pumpGoOn_spares hk _ _ s

theorem nowStep_spares (ph : NowPhase) {k : AfterNow} (hk : k.writes c = false) (s : State) :
    Ensures (Spares c s) (nowStep ph k s) := by
  cases ph with
  | n1 | n3 | n4 => exact { place := fun _ => hk }
  | n2 c1 => simp only [nowStep]; split <;> exact { place := fun _ => hk }
  | n2rest c1 o writes left =>
    simp only [nowStep, readTally]
    split
    · split <;> exact { place := fun _ => hk }
    · exact { place := fun _ => hk }
  | n5 o c2 => exact afterNow_spares hk _ s

theorem pumpStep_spares (hc : pumpWrites c = false) (p : PumpPart) (todo : List PumpPart) (k : AfterPump) (s : State) :
    Ensures (Spares c s) (pumpStep p todo k s) := by
  obtain ⟨hscanner, -⟩ := ne_of_pumpWrites hc
  cases p with
  | rx => exact (processRx_spares s).trans (pumpGoOn_spares hc todo k _)
  | tx => exact (drainOne_spares s).trans (pumpGoOn_spares hc todo k _)
  | adcPoll =>
    have h := adcPoll_spares hscanner s
    simp only [pumpStep]
    split <;> next s1 e => exact Spares.trans (by simpa [e] using h) (pumpGoOn_spares hc _ k s1)
  | adcNext =>
    have h := startNextConversion_spares hscanner s
    simp only [pumpStep]
    split
    · next s1 e => exact ((ensures_iff _ _).1 h s1 e).trans (pumpGoOn_spares hc todo k s1)
    · trivial
    · trivial
  | blink =>
    simp only [pumpStep]
    split
    · exact pumpGoOn_spares hc todo k s
    · exact { place := fun _ => hc }

theorem readByte_spares (s : State) : Ensures (Spares c s) (readByte s) := by
  unfold readByte
  split
  · exact { place := fun _ => rfl }
  · trivial

/-- R10: a labelled step writes only what the operation it belongs to may write. -/
theorem fgStep_spares {s : State} (hp : s.fg.writes c = false) : Ensures (Spares c s) (fgStep s) := by
  unfold fgStep
  cases hf : s.fg <;> rw [hf] at hp <;> dsimp only
  case idle => exact Spares.refl c s
  case now ph k => exact nowStep_spares ph hp s
  case rd1 | w1a | w2 => exact { place := fun _ => by dsimp only; split <;> rfl }
  case rd2a | rd2c | w4 | w5 => exact { place := fun _ => rfl }
  case rd2b => exact (processRx_spares s).trans { place := fun _ => rfl }
  case rd3 => exact readByte_spares s
  case w1b b =>
    split
    · exact { place := fun _ => rfl }
    · trivial
  case w3 | f2 => exact (drainOne_spares s).trans { place := fun _ => rfl }
  case f1 => split <;> exact { place := fun _ => rfl }
  case pump todo k =>
    cases todo with
    | nil => exact pumpGoOn_spares hp [] k s
    | cons p todo => exact pumpStep_spares hp p todo k s
  case blArm => exact { place := fun _ => hp, blinker := fun e => by subst e; cases hp }

/-! ### Operations -/

/-- A run of labelled steps and gaps, none of which holds a reset (R10, R68). -/
theorem continueFg_spares {s : State} (hr : NoReset s.env) (hp : s.fg.writes c = false) :
    Ensures (Spares c s) (continueFg s) :=
  (ensures_iff _ _).2 fun _ e =>
    runFg_keeps (P := Spares c s) (fun u t hu h => h.trans ((ensures_iff _ _).1 (fgStep_spares (h.place hp)) t hu))
      (fun _ _ _ hg h => h.trans { noReset := fun hn g' hm => hn g' (hg ▸ List.mem_cons_of_mem _ hm) })
      (fun x u _ h => h.trans (envEvent_spares x u)) (fun x u _ h => h.trans (runHandler_spares x u))
      (fun _ g _ hg hm h => absurd hm (h.noReset hr g (hg ▸ List.mem_cons_self))) _ (.refl c s) e

theorem startAt_spares {l : Fg} {s : State} (hr : NoReset s.env) (hl : l.writes c = false) :
    Ensures (Spares c s) (startAt l s) :=
  (ensures_iff _ _).2 fun t e =>
    have hstart : Spares c s { s with fg := l } := { place := fun _ => hl }
    hstart.trans ((ensures_iff _ _).1 (continueFg_spares (s := { s with fg := l }) hr hl) t e)

theorem tickMany_spares (n : Nat) (s : State) : Spares c s (tickMany n s) :=
  tickMany_keeps (P := Spares c s) (fun u h => h.trans (envEvent_spares .tick u))
    (fun x u _ h => h.trans (runHandler_spares x u)) n (.refl c s)

theorem environment_spares (e : EnvEvent) (s : State) : Ensures (Spares c s) (environment e s) := by
  unfold environment
  split
  · exact envEvent_spares e s
  · trivial

theorem sampleOf_spares (n : Nat) (s : State) : Ensures (Spares c s) (sampleOf n s) := by
  unfold sampleOf
  split
  · exact finish_spares _ s
  · trivial
  · trivial

theorem withResult_spares {s : State} {a : Answer} (r : Result) (h : Ensures (Spares c s) a) :
    Ensures (Spares c s) (withResult r a) := by
  cases a with
  | next t => exact Spares.trans h (finish_spares r t)
  | fault | refused => trivial

theorem deliver_spares (r : Result) (s : State) : Spares c s (deliver r s) := by
  unfold deliver
  split <;> exact {}

theorem withRing_spares (s : State) (R : Ring) (r : RingSel) : Spares c s (s.withRing R r) := by
  cases r <;> exact {}

theorem filterByte_spares (b : Byte) (s : State) : Spares c s (filterByte b s) := by
  rw [filterByte_frame]
  exact {}

/-- Every operation writes only its own components, where no reset is scheduled. -/
theorem exec_spares {i : Instr} {s : State} (hr : NoReset s.env) (hi : opWrites i c = false) :
    Ensures (Spares c s) (exec i s) := by
  cases i with
  | spEmpty | spTxEmpty | spTxReady | spOverflow | spClearOverflow | cli | sei =>
    exact inForeground_ensures { place := fun _ => rfl }
  | clkNow | spRead | spFlush => exact inForeground_ensures (startAt_spares hr rfl)
  | spWrite b => exact inForeground_ensures (startAt_spares hr (by split <;> rfl))
  | blSignal count on off =>
    have hplace : (Fg.blArm count on off).writes c = false := by cases c <;> exact hi
    exact inForeground_ensures (startAt_spares hr hplace)
  | pump | wait =>
    have hpump : pumpWrites c = false := by cases c <;> exact hi
    exact inForeground_ensures (startAt_spares hr hpump)
  | rbEmpty | rbFull | rbSize => exact inRingContext_ensures (deliver_spares _ s)
  | rbPush r v => exact inRingContext_ensures ((withRing_spares s _ r).trans (deliver_spares _ _))
  | rbPop r =>
    refine inRingContext_ensures ?_
    split
    · exact (withRing_spares s _ r).trans (deliver_spares _ _)
    · trivial
  | rbTop r =>
    refine inRingContext_ensures ?_
    split
    · exact deliver_spares _ s
    · trivial
  | btfCheck b => exact inRingContext_ensures ((filterByte_spares b s).trans (deliver_spares _ _))
  | clkProcess => exact inHandler_ensures (handlerBody_spares .tov s)
  | spIntrRx =>
    refine inHandler_ensures ?_
    split
    · exact intrRx_spares _ s
    · trivial
  | spIntrTx => exact inHandler_ensures (intrTx_spares s)
  | spProcessRx => exact inForeground_ensures ((processRx_spares s).trans (finish_spares _ _))
  | spProcessTx => exact inForeground_ensures ((drainOne_spares s).trans (finish_spares _ _))
  | dlNew d duration =>
    have hplace : (AfterNow.dlNew d duration).writes c = false := by cases c <;> exact hi
    refine inForeground_ensures ?_
    split
    · exact startAt_spares hr hplace
    · trivial
  | dlElapsed d =>
    refine inForeground_ensures ?_
    split
    · split
      · split
        · exact finish_spares _ s
        · exact startAt_spares hr rfl
      · trivial
    · trivial
  | dlRestart d =>
    have hplace : (AfterNow.dlRestart d).writes c = false := by cases c <;> exact hi
    refine inForeground_ensures ?_
    split
    · split
      · exact startAt_spares hr hplace
      · trivial
    · trivial
  | dlCancel d =>
    refine inForeground_ensures ?_
    split
    · exact { place := fun _ => rfl, deadlines := fun e => by subst e; cases hi }
    · trivial
  | swNew w =>
    have hplace : (AfterNow.swNew w).writes c = false := by cases c <;> exact hi
    refine inForeground_ensures ?_
    split
    · exact startAt_spares hr hplace
    · trivial
  | swElapsedTime w =>
    refine inForeground_ensures ?_
    split
    · split
      · exact startAt_spares hr rfl
      · trivial
    · trivial
  | spInit baud async =>
    refine inForeground_ensures ?_
    split
    · trivial
    · split
      · trivial
      · exact { place := fun _ => rfl }
  | adcProcess =>
    have hc : c ≠ .scanner := fun e => by subst e; cases hi
    exact inForeground_ensures ((adcPoll_spares hc s).trans (finish_spares _ _))
  | adcValue | adcValueOf => exact inForeground_ensures (sampleOf_spares _ s)
  | adcStart =>
    have hc : c ≠ .scanner := fun e => by subst e; cases hi
    exact inForeground_ensures (withResult_spares .none (startConversion_spares hc s))
  | adcNext =>
    have hc : c ≠ .scanner := fun e => by subst e; cases hi
    exact inForeground_ensures (withResult_spares .none (startNextConversion_spares hc s))
  | cfPushData b =>
    have hplace : AfterNow.cfArm.writes c = false := by cases c <;> exact hi
    refine inForeground_ensures ?_
    split
    · split
      · exact startAt_spares hr hplace
      · exact finish_spares _ s
    · exact startAt_spares hr hplace
  | cfPayload n =>
    refine inForeground_ensures ?_
    split
    · split
      · exact finish_spares _ s
      · trivial
    · trivial
  | blProcess =>
    have hplace : AfterNow.blProcess.writes c = false := by cases c <;> exact hi
    refine inForeground_ensures ?_
    split
    · exact finish_spares _ s
    · exact startAt_spares hr hplace
  | envTick n => exact tickMany_spares n s
  | envRx | envTxDone | envAdcDone => exact environment_spares _ s
  | envReset => cases c <;> cases hi

end

/-- Settles O59: no operation writes a component that is not its own. -/
theorem owners : Obligations.Owners := by
  unfold Obligations.Owners
  intro i s t hr e
  have hspares : ∀ {c : Component}, opWrites i c = false → Spares c s t :=
    fun hi => (ensures_iff _ _).1 (exec_spares hr hi) t e
  refine ⟨fun h => ?_, fun h => ?_, fun h => ?_, fun h => ?_, fun h => ?_⟩
  · exact (hspares (c := .framer) h).framer rfl
  · exact (hspares (c := .deadlines) h).deadlines rfl
  · exact (hspares (c := .stopwatches) h).stopwatches rfl
  · exact (hspares (c := .scanner) h).scanner rfl
  · exact (hspares (c := .blinker) h).blinker rfl

end Sys2Proof.Machine
end

section
/-! SUPPORT. The operand readers of the decoder (R93, R100, R120): each reads back the bytes of every operand, and accepts
the bytes of no other. -/

namespace Sys2Proof

/-! ### Values of several bytes -/

/-- R93: bytes assembled least significant first hold a value below `256` to their number. -/
theorem leValue_lt (bs : List Byte) : leValue bs < 256 ^ bs.length := by
  induction bs with
  | nil => exact Nat.one_pos
  | cons b bs ih =>
    have hb : b.toNat < 256 := b.isLt
    simp only [leValue, List.length_cons, pow_succ]
    omega

theorem leValue_leBytes {n v : Nat} (hv : v < 256 ^ n) : leValue (leBytes n v) = v := by
  induction n generalizing v with
  | zero => exact (Nat.lt_one_iff.1 hv).symm
  | succ n ih =>
    have hhigh : v / 256 < 256 ^ n := Nat.div_lt_of_lt_mul (by rwa [pow_succ, Nat.mul_comm] at hv)
    calc leValue (leBytes (n + 1) v) = v % 256 + 256 * leValue (leBytes n (v / 256)) := rfl
      _ = v % 256 + 256 * (v / 256) := by rw [ih hhigh]
      _ = v := Nat.mod_add_div v 256

theorem leBytes_leValue (bs : List Byte) : leBytes bs.length (leValue bs) = bs := by
  induction bs with
  | nil => rfl
  | cons b bs ih =>
    have hb : b.toNat < 256 := b.isLt
    have hlow : BitVec.ofNat 8 (leValue (b :: bs)) = b := BitVec.eq_of_toNat_eq (by simp [leValue]; omega)
    have hhigh : leValue (b :: bs) / 256 = leValue bs := by simp only [leValue]; omega
    rw [List.length_cons, leBytes, hlow, hhigh, ih]

/-! ### What each operand reader answers on the bytes of an operand -/

theorem takeByte_cons (b : Byte) (bs : List Byte) (k : Byte → List Byte → Decoded) : takeByte (b :: bs) k = k b bs := rfl

theorem takeRing_byte (r : RingSel) (bs : List Byte) (k : RingSel → List Byte → Decoded) :
    takeRing (r.byte :: bs) k = k r bs := by
  cases r <;> rfl

theorem takeBool_boolByte (a : Bool) (bs : List Byte) (k : Bool → List Byte → Decoded) :
    takeBool (boolByte a :: bs) k = k a bs := by
  cases a <;> rfl

theorem takeFlags_flagsByte (ovf fe : Bool) (bs : List Byte) (k : Bool → Bool → List Byte → Decoded) :
    takeFlags (flagsByte ovf fe :: bs) k = k ovf fe bs := by
  cases ovf <;> cases fe <;> rfl

theorem takeLe_leBytes {n v : Nat} (hv : v < 256 ^ n) (bs : List Byte) (k : Nat → List Byte → Decoded) :
    takeLe n (leBytes n v ++ bs) k = k v bs := by
  have hlen : (leBytes n v).length = n := Laws.leBytes_length n v
  rw [takeLe, if_pos (by simp [hlen]), List.take_left' hlen, List.drop_left' hlen, leValue_leBytes hv]

/-- R93, R104: an index that fits its space is read back from its byte. -/
theorem takeByte_index {n d : Nat} (hd : indexFits n d = true) (bs : List Byte) (k : Nat → List Byte → Decoded) :
    takeByte (BitVec.ofNat 8 d :: bs) (fun b => k b.toNat) = k d bs := by
  have hlt : d < 256 := by simp_all [indexFits]
  rw [takeByte_cons, BitVec.toNat_ofNat, Nat.mod_eq_of_lt hlt]

theorem timeFits_iff (P : Params) (t : Nat) : P.timeFits t = true ↔ t < 256 ^ P.timeBytes := by
  simp [Params.timeFits, pow_mul]

/-! ### What each operand reader accepts -/

theorem takeByte_eq_ok {bs : List Byte} {k : Byte → List Byte → Decoded} {x : Instr × List Byte} :
    takeByte bs k = .ok x ↔ ∃ b rest, bs = b :: rest ∧ k b rest = .ok x := by
  cases bs <;> simp [takeByte]

theorem takeRing_eq_ok {bs : List Byte} {k : RingSel → List Byte → Decoded} {x : Instr × List Byte} :
    takeRing bs k = .ok x ↔ ∃ r rest, bs = RingSel.byte r :: rest ∧ k r rest = .ok x := by
  constructor
  · intro h
    obtain ⟨b, rest, rfl, hk⟩ := takeByte_eq_ok.1 h
    split at hk
    · next hb => exact ⟨.rx, rest, by rw [hb]; rfl, hk⟩
    · split at hk
      · next hb => exact ⟨.tx, rest, by rw [hb]; rfl, hk⟩
      · cases hk
  · rintro ⟨r, rest, rfl, h⟩
    rwa [takeRing_byte]

theorem takeBool_eq_ok {bs : List Byte} {k : Bool → List Byte → Decoded} {x : Instr × List Byte} :
    takeBool bs k = .ok x ↔ ∃ a rest, bs = boolByte a :: rest ∧ k a rest = .ok x := by
  constructor
  · intro h
    obtain ⟨b, rest, rfl, hk⟩ := takeByte_eq_ok.1 h
    split at hk
    · next hb => exact ⟨false, rest, by rw [hb]; rfl, hk⟩
    · split at hk
      · next hb => exact ⟨true, rest, by rw [hb]; rfl, hk⟩
      · cases hk
  · rintro ⟨a, rest, rfl, h⟩
    rwa [takeBool_boolByte]

/-- R100: a `flags` byte whose reserved bits are 0 is made of its two flags. -/
theorem flagsByte_getLsbD : ∀ b : Byte, b.toNat < 4 → flagsByte (b.getLsbD 0) (b.getLsbD 1) = b := by decide

theorem takeFlags_eq_ok {bs : List Byte} {k : Bool → Bool → List Byte → Decoded} {x : Instr × List Byte} :
    takeFlags bs k = .ok x ↔ ∃ ovf fe rest, bs = flagsByte ovf fe :: rest ∧ k ovf fe rest = .ok x := by
  constructor
  · intro h
    obtain ⟨b, rest, rfl, hk⟩ := takeByte_eq_ok.1 h
    split at hk
    · next hb => exact ⟨_, _, rest, by rw [flagsByte_getLsbD b hb], hk⟩
    · cases hk
  · rintro ⟨ovf, fe, rest, rfl, h⟩
    rwa [takeFlags_flagsByte]

theorem takeLe_eq_ok {n : Nat} {bs : List Byte} {k : Nat → List Byte → Decoded} {x : Instr × List Byte} :
    takeLe n bs k = .ok x ↔ ∃ v rest, v < 256 ^ n ∧ bs = leBytes n v ++ rest ∧ k v rest = .ok x := by
  constructor
  · intro h
    unfold takeLe at h
    split at h
    · next hlen =>
      have htake : (bs.take n).length = n := List.length_take_of_le hlen
      have hlt := leValue_lt (bs.take n)
      have hbytes := leBytes_leValue (bs.take n)
      rw [htake] at hlt hbytes
      exact ⟨_, _, hlt, by rw [hbytes, List.take_append_drop], h⟩
    · cases h
  · rintro ⟨v, rest, hv, rfl, h⟩
    rwa [takeLe_leBytes hv]

end Sys2Proof
end

section
/-! SUPPORT. Operation words (R91, R93, R95): the decoder and the encoder are inverse to each other. -/

namespace Sys2Proof

/-- R91, R104: a word decodes when its operand bytes do and the operands are in range. -/
theorem decode_cons_eq_ok {P : Params} {op : Byte} {bs rest : List Byte} {i : Instr} :
    decode P (op :: bs) = .ok (i, rest) ↔
      decodeOperands P op.toNat bs = .ok (i, rest) ∧ i.wellFormed P = true := by
  cases h : decodeOperands P op.toNat bs with
  | error e => simp [decode, h]
  | ok x =>
    obtain ⟨j, more⟩ := x
    by_cases hw : j.wellFormed P = true
    · simp only [decode, h, hw, if_true, Except.ok.injEq, Prod.mk.injEq]
      exact ⟨fun e => ⟨e, e.1 ▸ hw⟩, And.left⟩
    · simp only [decode, h, hw, Except.ok.injEq, Prod.mk.injEq]
      exact iff_of_false (fun e => by cases e) fun ⟨e, hi⟩ => hw (e.1 ▸ hi)

/-- R91, R93, R95: the operand bytes of a well-formed operation are read back under its opcode. -/
theorem decodeOperands_operands {P : Params} {i : Instr} (hw : i.wellFormed P = true) (rest : List Byte) :
    decodeOperands P i.opcode.toNat (i.operands P ++ rest) = .ok (i, rest) := by
  cases i with
  | clkProcess | clkNow | spEmpty | spTxEmpty | spTxReady | spRead | spFlush | spProcessRx | spIntrRx | spProcessTx
  | spIntrTx | spOverflow | spClearOverflow | adcProcess | adcValue | adcStart | adcNext | blProcess | pump | cli | sei
  | envTxDone | envReset => rfl
  | btfCheck | spWrite | cfPushData => rfl
  | rbPush r | rbPop r | rbTop r | rbEmpty r | rbFull r | rbSize r => cases r <;> rfl
  | dlElapsed d => exact takeByte_index hw rest fun d bs => .ok (.dlElapsed d, bs)
  | dlRestart d => exact takeByte_index hw rest fun d bs => .ok (.dlRestart d, bs)
  | dlCancel d => exact takeByte_index hw rest fun d bs => .ok (.dlCancel d, bs)
  | swNew w => exact takeByte_index hw rest fun w bs => .ok (.swNew w, bs)
  | swElapsedTime w => exact takeByte_index hw rest fun w bs => .ok (.swElapsedTime w, bs)
  | adcValueOf c => exact takeByte_index hw rest fun c bs => .ok (.adcValueOf c, bs)
  | cfPayload n => exact takeByte_index hw rest fun n bs => .ok (.cfPayload n, bs)
  | wait t => exact takeLe_leBytes ((timeFits_iff P t).1 hw) rest fun t bs => .ok (.wait t, bs)
  | envTick n => exact takeLe_leBytes ((timeFits_iff P n).1 hw) rest fun n bs => .ok (.envTick n, bs)
  | envRx d ovf fe => exact takeFlags_flagsByte ovf fe rest fun ovf fe bs => .ok (.envRx d ovf fe, bs)
  | envAdcDone v =>
    obtain ⟨-, hv⟩ : v < 2 ^ P.wAdc ∧ v < 65536 := by simpa [Instr.wellFormed] using hw
    exact takeLe_leBytes (n := 2) hv rest fun v bs => .ok (.envAdcDone v, bs)
  | dlNew d t =>
    obtain ⟨hd, ht⟩ : indexFits P.nDl d = true ∧ P.timeFits t = true := by simpa [Instr.wellFormed] using hw
    exact (takeByte_index hd _ fun d bs => takeLe P.timeBytes bs fun t bs => .ok (.dlNew d t, bs)).trans
      (takeLe_leBytes ((timeFits_iff P t).1 ht) rest _)
  | spInit baud async =>
    have hbaud : baud.toNat < 256 ^ 4 := baud.isLt
    have hread : decodeOperands P 0x50 (leBytes 4 baud.toNat ++ boolByte async :: rest) =
        .ok (.spInit (BitVec.ofNat 32 baud.toNat) async, rest) :=
      (takeLe_leBytes hbaud _ fun v bs => takeBool bs fun a bs => .ok (.spInit (BitVec.ofNat 32 v) a, bs)).trans
        (takeBool_boolByte async rest _)
    rwa [BitVec.ofNat_toNat, BitVec.setWidth_eq] at hread
  | blSignal c on off =>
    obtain ⟨⟨hc, hon⟩, hoff⟩ : (indexFits (2 ^ P.wCount) c = true ∧ P.timeFits on = true) ∧ P.timeFits off = true := by
      simpa [Instr.wellFormed] using hw
    have hbytes : (Instr.blSignal c on off).operands P ++ rest =
        BitVec.ofNat 8 c :: (leBytes P.timeBytes on ++ (leBytes P.timeBytes off ++ rest)) := by simp [Instr.operands]
    rw [hbytes]
    exact ((takeByte_index hc _ fun c bs => takeLe P.timeBytes bs fun on bs =>
        takeLe P.timeBytes bs fun off bs => .ok (.blSignal c on off, bs)).trans
      (takeLe_leBytes ((timeFits_iff P on).1 hon) _ _)).trans (takeLe_leBytes ((timeFits_iff P off).1 hoff) rest _)

/-- R91, R93, R95: bytes that are read under an opcode are the operand bytes of an operation of that opcode. -/
theorem operands_of_decodeOperands {P : Params} {op : Nat} {bs rest : List Byte} {i : Instr}
    (h : decodeOperands P op bs = .ok (i, rest)) : i.opcode.toNat = op ∧ i.operands P ++ rest = bs := by
  unfold decodeOperands at h
  split at h
  -- `RB.PUSH`
  case h_1 =>
    simp only [takeRing_eq_ok, takeByte_eq_ok, Except.ok.injEq, Prod.mk.injEq] at h
    obtain ⟨r, _, rfl, v, _, rfl, rfl, rfl⟩ := h
    exact ⟨rfl, rfl⟩
  -- the other operations on a ring
  case h_2 | h_3 | h_4 | h_5 | h_6 =>
    simp only [takeRing_eq_ok, Except.ok.injEq, Prod.mk.injEq] at h
    obtain ⟨r, _, rfl, rfl, rfl⟩ := h
    exact ⟨rfl, rfl⟩
  -- a byte that is held as it is: `BTF.CHECK`, `SP.WRITE`, `CF.PUSH_DATA`
  case h_15 | h_21 | h_34 =>
    simp only [takeByte_eq_ok, Except.ok.injEq, Prod.mk.injEq] at h
    obtain ⟨b, _, rfl, rfl, rfl⟩ := h
    exact ⟨rfl, rfl⟩
  -- an index of one byte
  case h_10 | h_11 | h_12 | h_13 | h_14 | h_33 | h_35 =>
    simp only [takeByte_eq_ok, Except.ok.injEq, Prod.mk.injEq] at h
    obtain ⟨d, _, rfl, rfl, rfl⟩ := h
    exact ⟨rfl, by simp [Instr.operands]⟩
  -- `DL.NEW`
  case h_9 =>
    simp only [takeByte_eq_ok, takeLe_eq_ok, Except.ok.injEq, Prod.mk.injEq] at h
    obtain ⟨d, _, rfl, t, _, -, rfl, rfl, rfl⟩ := h
    exact ⟨rfl, by simp [Instr.operands]⟩
  -- `SP.INIT`
  case h_16 =>
    simp only [takeLe_eq_ok, takeBool_eq_ok, Except.ok.injEq, Prod.mk.injEq] at h
    obtain ⟨v, _, hv, rfl, a, _, rfl, rfl, rfl⟩ := h
    have hbaud : (BitVec.ofNat 32 v).toNat = v := Nat.mod_eq_of_lt hv
    exact ⟨rfl, by simp [Instr.operands, hbaud]⟩
  -- `BL.SIGNAL`
  case h_36 =>
    simp only [takeByte_eq_ok, takeLe_eq_ok, Except.ok.injEq, Prod.mk.injEq] at h
    obtain ⟨c, _, rfl, on, _, -, rfl, off, _, -, rfl, rfl, rfl⟩ := h
    exact ⟨rfl, by simp [Instr.operands]⟩
  -- a value of several bytes alone: `WAIT`, `ENV.TICK`, `ENV.ADC_DONE`
  case h_39 | h_42 | h_45 =>
    simp only [takeLe_eq_ok, Except.ok.injEq, Prod.mk.injEq] at h
    obtain ⟨v, _, -, rfl, rfl, rfl⟩ := h
    exact ⟨rfl, rfl⟩
  -- `ENV.RX`
  case h_43 =>
    simp only [takeByte_eq_ok, takeFlags_eq_ok, Except.ok.injEq, Prod.mk.injEq] at h
    obtain ⟨d, _, rfl, ovf, fe, _, rfl, rfl, rfl⟩ := h
    exact ⟨rfl, rfl⟩
  -- no opcode of the table
  case h_47 => cases h
  -- the operations without operands
  all_goals
    cases h
    exact ⟨rfl, rfl⟩

theorem decode_encode {P : Params} {i : Instr} (rest : List Byte) (hw : i.wellFormed P = true) :
    decode P (encode P i ++ rest) = .ok (i, rest) :=
  decode_cons_eq_ok.2 ⟨decodeOperands_operands hw rest, hw⟩

theorem encode_of_decode {P : Params} {bytes rest : List Byte} {i : Instr} (h : decode P bytes = .ok (i, rest)) :
    encode P i ++ rest = bytes ∧ i.wellFormed P = true := by
  cases bytes with
  | nil => cases h
  | cons op bs =>
    obtain ⟨hops, hw⟩ := decode_cons_eq_ok.1 h
    obtain ⟨hop, hbs⟩ := operands_of_decodeOperands hops
    exact ⟨congrArg₂ List.cons (BitVec.eq_of_toNat_eq hop) hbs, hw⟩

/-- Settles O1: the operand bytes of a well-formed operation are read back, under the opcode of its row. -/
theorem decodeEncode : Obligations.DecodeEncode := by
  unfold Obligations.DecodeEncode
  intro P i rest hw
  exact decode_encode rest hw

/-- Settles O2: the bytes that each row of the decoder accepts are those the encoder writes for its operation. -/
theorem encodeDecode : Obligations.EncodeDecode := by
  unfold Obligations.EncodeDecode
  intro P bytes i rest h
  exact encode_of_decode h

end Sys2Proof
end

section
/-! SUPPORT. Refused words (R103, R104), and words written out from the tables (R91, R95). -/

namespace Sys2Proof

/-! ### Opcodes of no operation -/

/-- One operation for each row of the table of R95. -/
def tableRows : List Instr :=
  [.rbPush .rx 0, .rbPop .rx, .rbTop .rx, .rbEmpty .rx, .rbFull .rx, .rbSize .rx, .clkProcess, .clkNow, .dlNew 0 0,
    .dlElapsed 0, .dlRestart 0, .dlCancel 0, .swNew 0, .swElapsedTime 0, .btfCheck 0, .spInit 0 false, .spEmpty,
    .spTxEmpty, .spTxReady, .spRead, .spWrite 0, .spFlush, .spProcessRx, .spIntrRx, .spProcessTx, .spIntrTx,
    .spOverflow, .spClearOverflow, .adcProcess, .adcValue, .adcStart, .adcNext, .adcValueOf 0, .cfPushData 0,
    .cfPayload 0, .blSignal 0 0 0, .blProcess, .pump, .wait 0, .cli, .sei, .envTick 0, .envRx 0 false false,
    .envTxDone, .envAdcDone 0, .envReset]

/-- R103: a number that is the opcode of no row of R95 spells no operation. -/
theorem decodeOperands_unassigned {op : Nat} (h : op ∉ tableRows.map fun i => i.opcode.toNat) (P : Params)
    (bs : List Byte) : decodeOperands P op bs = .error .opcode := by
  unfold decodeOperands
  split
  case h_47 => rfl
  all_goals exact absurd (by decide) h

theorem decode_of_decodeOperands_error {P : Params} {op : Byte} {bs : List Byte} {e : DecodeError}
    (h : decodeOperands P op.toNat bs = .error e) : decode P (op :: bs) = .error e := by
  simp only [decode, h]

/-- Settles O3: an opcode of no operation is that of no row of R95. -/
theorem unassignedOpcodes : Obligations.UnassignedOpcodes := by
  unfold Obligations.UnassignedOpcodes
  intro P op bs h
  refine decode_of_decodeOperands_error (decodeOperands_unassigned ?_ P bs)
  simpa [List.mem_map, BitVec.toNat_inj] using fun i _ => h i

/-! ### Operands outside their legal set -/

theorem ne_of_two_le {b : Byte} (hb : 2 ≤ b.toNat) : b ≠ 0 ∧ b ≠ 1 :=
  ⟨by rintro rfl; contradiction, by rintro rfl; contradiction⟩

theorem takeRing_error {r : Byte} (hr : 2 ≤ r.toNat) (bs : List Byte) (k : RingSel → List Byte → Decoded) :
    takeRing (r :: bs) k = .error .ring :=
  (if_neg (ne_of_two_le hr).1).trans (if_neg (ne_of_two_le hr).2)

theorem takeBool_error {a : Byte} (ha : 2 ≤ a.toNat) (bs : List Byte) (k : Bool → List Byte → Decoded) :
    takeBool (a :: bs) k = .error .bool :=
  (if_neg (ne_of_two_le ha).1).trans (if_neg (ne_of_two_le ha).2)

theorem takeFlags_error {f : Byte} (hf : 4 ≤ f.toNat) (bs : List Byte) (k : Bool → Bool → List Byte → Decoded) :
    takeFlags (f :: bs) k = .error .flags := if_neg (Nat.not_lt.2 hf)

theorem takeLe_of_le {n : Nat} {bs : List Byte} (h : n ≤ bs.length) (k : Nat → List Byte → Decoded) :
    takeLe n bs k = k (leValue (bs.take n)) (bs.drop n) := if_pos h

/-- R104: a word that is read as an operation with an operand out of range is refused. -/
theorem decode_of_not_wellFormed {P : Params} {op : Byte} {bs rest : List Byte} {i : Instr}
    (h : decodeOperands P op.toNat bs = .ok (i, rest)) (hw : i.wellFormed P = false) :
    decode P (op :: bs) = .error .range := by
  simp [decode, h, hw]

theorem indexFits_of_le {n i : Nat} (h : n ≤ i) : indexFits n i = false := by
  simp [indexFits, Nat.not_lt.2 h]

theorem exists_boolByte {a : Byte} (ha : a.toNat < 2) : ∃ async, a = boolByte async := by
  obtain h | h : a.toNat = 0 ∨ a.toNat = 1 := by omega
  · exact ⟨false, BitVec.eq_of_toNat_eq h⟩
  · exact ⟨true, BitVec.eq_of_toNat_eq h⟩

/-- R93: the baud operand of `SP.INIT` takes four bytes. -/
theorem decodeOperands_spInit (P : Params) (b0 b1 b2 b3 : Byte) (bs : List Byte) :
    decodeOperands P 0x50 (b0 :: b1 :: b2 :: b3 :: bs) =
      takeBool bs fun a bs => .ok (.spInit (BitVec.ofNat 32 (leValue [b0, b1, b2, b3])) a, bs) :=
  takeLe_of_le (n := 4) (by simp) fun v bs => takeBool bs fun a bs => .ok (.spInit (BitVec.ofNat 32 v) a, bs)

/-- Settles O4. A ring, `bool` or `flags` byte is refused where it is read, any other operand by the check of the
operation it is read into. -/
theorem operandChecks : Obligations.OperandChecks := by
  unfold Obligations.OperandChecks
  intro P bs
  refine ⟨?ring, ?push, ?deadline, ?dlNew, ?stopwatch, ?channel, ?payload, ?bool, ?baud, ?flags, ?sample, ?count⟩
  case ring =>
    intro op r hop hr
    have hread : decodeOperands P op.toNat (r :: bs) = .error .ring := by
      fin_cases hop <;> simp [decodeOperands, takeRing_error hr]
    exact decode_of_decodeOperands_error hread
  case push =>
    intro r v hr
    exact decode_of_decodeOperands_error
      (takeRing_error hr (v :: bs) fun r bs => takeByte bs fun v bs => .ok (.rbPush r v, bs))
  case deadline =>
    intro op d hop hd
    fin_cases hop <;> exact decode_of_not_wellFormed rfl (indexFits_of_le hd)
  case dlNew =>
    intro d hd hlen
    refine decode_of_not_wellFormed (takeLe_of_le hlen fun t bs => .ok (.dlNew d.toNat t, bs)) ?_
    simp [Instr.wellFormed, indexFits_of_le hd]
  case stopwatch =>
    intro op w hop hw
    fin_cases hop <;> exact decode_of_not_wellFormed rfl (indexFits_of_le hw)
  case channel => exact fun i hi => decode_of_not_wellFormed rfl (indexFits_of_le hi)
  case payload =>
    intro i hi
    have hpos : 1 ≤ i.toNat := by bv_omega
    exact decode_of_not_wellFormed rfl (indexFits_of_le hpos)
  case bool =>
    intro b0 b1 b2 b3 a ha
    exact decode_of_decodeOperands_error ((decodeOperands_spInit P b0 b1 b2 b3 (a :: bs)).trans (takeBool_error ha bs _))
  case baud =>
    intro a ha
    obtain ⟨async, rfl⟩ := exists_boolByte ha
    exact decode_of_not_wellFormed
      ((decodeOperands_spInit P 0 0 0 0 (boolByte async :: bs)).trans (takeBool_boolByte async bs _)) rfl
  case flags =>
    intro d f hf
    exact decode_of_decodeOperands_error (takeFlags_error hf bs fun ovf fe bs => .ok (.envRx d ovf fe, bs))
  case sample =>
    intro v0 v1 hv
    have hlen : 2 ≤ (v0 :: v1 :: bs).length := by simp
    refine decode_of_not_wellFormed (takeLe_of_le hlen fun v bs => .ok (.envAdcDone v, bs)) ?_
    simp [Instr.wellFormed, leValue, Nat.not_lt.2 hv]
  case count =>
    intro c hc hlen
    have hon : P.timeBytes ≤ bs.length := by omega
    have hoff : P.timeBytes ≤ (bs.drop P.timeBytes).length := by
      rw [List.length_drop]
      omega
    refine decode_of_not_wellFormed ((takeLe_of_le hon fun on bs => takeLe P.timeBytes bs fun off bs =>
      .ok (.blSignal c.toNat on off, bs)).trans (takeLe_of_le hoff _)) ?_
    simp [Instr.wellFormed, indexFits_of_le hc]

/-! ### Words of the tables -/

/-- Settles O5: each word is evaluated. -/
theorem decodeWords : Obligations.DecodeWords := by
  unfold Obligations.DecodeWords
  exact ⟨rfl, rfl, rfl, rfl, rfl, rfl⟩

end Sys2Proof
end

section
/-! SUPPORT. The layout of a clock value (R96), and the step on bytes that spell no operation (R103, R104). -/

namespace Sys2Proof.Machine

/-! ### The layout of a clock value -/

/-- Settles O19: a counter below `2 ^ W_CNT` and a tally above it share no bit. -/
theorem wideTimeLayout : Obligations.WideTimeLayout := by
  unfold Obligations.WideTimeLayout
  refine ⟨fun P tally cnt ht hc => ?_, fun P h => by simp [wideTime, h], fun P h => by simp [wideTime, h]⟩
  have hbit (j : Nat) : (wideTime P tally cnt).testBit j =
      if j < P.wCnt then cnt.testBit j else tally.testBit (j - P.wCnt) := by
    rw [wideTime, Nat.mul_comm, Nat.testBit_two_pow_mul_add tally hc]
  refine ⟨?_, fitsWidth_wideTime ht hc, fun j hj => ?_, fun j => ?_⟩
  · rw [← Nat.shiftLeft_add_eq_or_of_lt hc, Nat.shiftLeft_eq, wideTime]
  · rw [hbit, if_pos hj]
  · rw [hbit, if_neg (by omega), Nat.add_sub_cancel_left]

/-! ### The step on bytes that spell nothing -/

theorem fetch_invalid {s : State} {e : DecodeError} (hne : s.issue ≠ []) (hd : decode s.cfg s.issue = .error e)
    (hi : s.fg = .idle) : fetch s = .invalid e := by
  obtain ⟨b, bs, hb⟩ := List.exists_cons_of_ne_nil hne
  rw [hb] at hd
  simp [fetch, hb, hd, hi, Fg.isIdle]

/-- Settles O9: what is fetched is the decoder's refusal. -/
theorem stepRefusesWords : Obligations.StepRefusesWords := by
  unfold Obligations.StepRefusesWords
  rintro s e ⟨hh, hi⟩ hc hne hd
  simp [step, hh, hc, fetch_invalid hne hd hi]

end Sys2Proof.Machine
end

section
/-! SUPPORT. Direct ring accesses (R120 to R129, R281): where they are answered or refused, and what they do to the
cursors and to the sequence of R22. -/

namespace Sys2Proof.Machine

/-! ### Contexts -/

/-- R281, R129: a ring operation is performed where it may be issued. -/
theorem inRingContext_ready {hs : List Handler} {s : State} (a : Answer) (h : RingReady hs s) :
    inRingContext hs s a = a := by
  obtain ⟨x, hx, hh⟩ | ⟨⟨hh, hf⟩, hu⟩ := h
  · simp [inRingContext, hh, hx]
  · simp [inRingContext, hh, hf, hu, Fg.isIdle]

/-- R129, R312: the foreground's ring operation is refused where a handler may touch the rings. -/
theorem inRingContext_unserialised {hs : List Handler} {s : State} (a : Answer) (h : Ready s)
    (hu : s.unserialised = true) : inRingContext hs s a = .refused .unserialised := by
  obtain ⟨hh, hf⟩ := h
  simp [inRingContext, hh, hf, hu, Fg.isIdle]

/-- R281: a ring operation is refused in every handler but those whose body uses it. -/
theorem inRingContext_otherHandler {hs : List Handler} {s : State} {x : Handler} (a : Answer)
    (hh : s.cpu.handler = some x) (hx : x ∉ hs) : inRingContext hs s a = .refused .wrongContext := by
  simp [inRingContext, hh, hx]

theorem unserialised_iff (s : State) :
    s.unserialised = true ↔ s.cpu.gie = true ∧ (s.cfg.rxIrq = true ∨ s.hw.dreIe = true) := by
  simp [State.unserialised]

/-! ### The cursors of a ring -/

theorem ringPush_full {n : Nat} {R : Ring} (v : Byte) (hc : R.count = n) : ringPush n v R = (R, false) := by
  simpa [hc] using ringPush_cases n v R

theorem ringPush_free {n : Nat} {R : Ring} (v : Byte) (hc : R.count ≠ n) : ringPush n v R =
    ({ R with buf := R.buf.set R.tail v, tail := (R.tail + 1) % n, count := R.count + 1 }, true) := by
  simpa [hc] using ringPush_cases n v R

theorem ringPop_empty {R : Ring} (n : Nat) (hc : R.count = 0) : ringPop n R = none := by
  simpa [hc] using ringPop_cases n R

theorem ringPop_nonempty {R : Ring} (n : Nat) (hc : R.count ≠ 0) : ringPop n R =
    some (R.front, { R with head := (R.head + 1) % n, count := R.count - 1 }) := by
  simpa [hc] using ringPop_cases n R

theorem ringTop_empty {R : Ring} (hc : R.count = 0) : ringTop R = none := by
  simpa [hc] using ringTop_cases R

theorem ringTop_nonempty {R : Ring} (hc : R.count ≠ 0) : ringTop R = some R.front := by
  simpa [hc] using ringTop_cases R

/-- R21: a ring without slots holds nothing. -/
theorem RingOk.count_eq_zero {n : Nat} {R : Ring} (h : RingOk n R) (hn : n = 0) : R.count = 0 :=
  Nat.le_zero.1 (hn ▸ h.count_le)

/-! ### The sequence of a ring -/

@[simp] theorem Ring.length_q (n : Nat) (R : Ring) : (R.q n).length = R.count := by simp [Ring.q]

/-- R22: slots fewer than `n` apart are different slots. -/
theorem slot_ne {n h j k : Nat} (hjk : j < k) (hk : k < n) : (h + j) % n ≠ (h + k) % n := fun e =>
  Nat.ne_of_lt hjk (Nat.ModEq.eq_of_lt_of_lt (Nat.ModEq.add_left_cancel' h e) (Nat.lt_trans hjk hk) hk)

/-- R121 on the sequence: the new element is its last, since no other element is in the slot at the tail. -/
theorem RingOk.q_push {n : Nat} {R : Ring} (h : RingOk n R) (hc : R.count ≠ n) (v : Byte) :
    (ringPush n v R).1.q n = R.q n ++ [v] := by
  have hlt : R.count < n := lt_of_le_of_ne h.count_le hc
  have htail : R.tail = (R.head + R.count) % n := h.tail_eq (by omega)
  have hslot : R.tail < R.buf.length := by
    rw [h.slots, htail]
    exact Nat.mod_lt _ (by omega)
  have hold : ∀ j ∈ List.range R.count,
      (R.buf.set R.tail v).getD ((R.head + j) % n) 0 = R.buf.getD ((R.head + j) % n) 0 := fun j hj => by
    have hne : R.tail ≠ (R.head + j) % n := htail ▸ (slot_ne (List.mem_range.1 hj) hlt).symm
    simp [List.getD, List.getElem?_set_ne hne]
  have hnew : (R.buf.set R.tail v).getD ((R.head + R.count) % n) 0 = v := by
    rw [← htail]
    simp [List.getD, hslot]
  rw [ringPush_free v hc]
  simp only [Ring.q, List.range_succ, List.map_append, List.map_cons, List.map_nil, hnew, List.map_congr_left hold]

/-- R122 on the sequence: a pop takes the first element, the one R123 shows. -/
theorem RingOk.q_pop {n : Nat} {R : Ring} (h : RingOk n R) (hc : R.count ≠ 0) :
    R.q n = R.front :: { R with head := (R.head + 1) % n, count := R.count - 1 }.q n := by
  have hle := h.count_le
  have hhead : R.head % n = R.head := Nat.mod_eq_of_lt (h.head_lt (by omega))
  have hnext (j : Nat) : R.head + 1 + j = R.head + (j + 1) := by omega
  obtain ⟨k, hk⟩ := Nat.exists_eq_succ_of_ne_zero hc
  simp [Ring.q, Ring.front, hk, List.range_succ_eq_map, Function.comp_def, hhead, hnext]

/-! ### Ring operations where they may be issued -/

@[simp] theorem withRing_ring (s : State) (r : RingSel) : s.withRing (s.ring r) r = s := by cases r <;> rfl

section
variable {s : State} (h : RingReady ringHandlers s) (r : RingSel)
include h

theorem exec_rbPush (v : Byte) : exec (.rbPush r v) s =
    .next (deliver (.bool (ringPush (capacity s.cfg r) v (s.ring r)).2)
      (s.withRing (ringPush (capacity s.cfg r) v (s.ring r)).1 r)) :=
  inRingContext_ready _ h

theorem exec_rbPop_empty (hc : (s.ring r).count = 0) : exec (.rbPop r) s = .fault .popEmpty :=
  (inRingContext_ready _ h).trans (by rw [ringPop_empty _ hc])

theorem exec_rbPop (hc : (s.ring r).count ≠ 0) : exec (.rbPop r) s =
    .next (deliver (.byte (s.ring r).front) (s.withRing { s.ring r with
      head := ((s.ring r).head + 1) % capacity s.cfg r, count := (s.ring r).count - 1 } r)) :=
  (inRingContext_ready _ h).trans (by rw [ringPop_nonempty _ hc])

theorem exec_rbTop_empty (hc : (s.ring r).count = 0) : exec (.rbTop r) s = .fault .popEmpty :=
  (inRingContext_ready _ h).trans (by rw [ringTop_empty hc])

theorem exec_rbTop (hc : (s.ring r).count ≠ 0) :
    exec (.rbTop r) s = .next (deliver (.byte (s.ring r).front) s) :=
  (inRingContext_ready _ h).trans (by rw [ringTop_nonempty hc])

theorem exec_rbEmpty : exec (.rbEmpty r) s = .next (deliver (.bool (decide ((s.ring r).count = 0))) s) :=
  inRingContext_ready _ h

theorem exec_rbFull :
    exec (.rbFull r) s = .next (deliver (.bool (decide ((s.ring r).count = capacity s.cfg r))) s) :=
  inRingContext_ready _ h

theorem exec_rbSize : exec (.rbSize r) s = .next (deliver (.count (s.ring r).count) s) :=
  inRingContext_ready _ h

end

/-- Settles O15: the two cases of `ringPush`, and `RingOk.q_push` for the sequence. -/
theorem rbPush : Obligations.RbPush := by
  unfold Obligations.RbPush
  intro r v s h n R R'
  have hexec := exec_rbPush h r v
  refine ⟨rfl, fun hfull => ?_, fun hfree => ?_, fun hR => ?_, fun hR hfree => ?_⟩
  · rw [hexec, ringPush_full v hfull, withRing_ring]
  · rw [hexec, ringPush_free v hfree]
  · exact ⟨R.length_q n, fun hn => (hR.count_eq_zero hn).trans hn.symm⟩
  · have hring : (ringPush n v R).1 = R' := congrArg Prod.fst (ringPush_free v hfree)
    exact ⟨hring ▸ hR.push v, hring ▸ hR.q_push hfree v⟩

/-- Settles O16: an empty ring has no oldest element; `RingOk.q_pop` for the sequence. -/
theorem rbPopTop : Obligations.RbPopTop := by
  unfold Obligations.RbPopTop
  intro r s h n R R'
  exact ⟨fun hc => ⟨exec_rbPop_empty h r hc, exec_rbTop_empty h r hc⟩,
    fun hc => ⟨exec_rbPop h r hc, exec_rbTop h r hc⟩, fun hR hc => ⟨hR.pop hc, hR.q_pop hc⟩⟩

/-- Settles O17: a query answers from the cursors alone. -/
theorem rbQueries : Obligations.RbQueries := by
  unfold Obligations.RbQueries
  intro r s h n R
  exact ⟨rfl, rfl, rfl, exec_rbEmpty h r, exec_rbFull h r, exec_rbSize h r, R.length_q n,
    fun hR => ⟨hR.count_le, hR.count_eq_zero⟩⟩

/-- Settles O18: each of these operations starts with a context check that leaves the timer handler out. -/
theorem ringRefusals : Obligations.RingRefusals := by
  unfold Obligations.RingRefusals
  intro r v s i hi
  have hcontext : ∃ hs a, exec i s = inRingContext hs s a ∧ Handler.tov ∉ hs := by
    simp only [List.mem_cons, List.not_mem_nil, or_false] at hi
    obtain rfl | rfl | rfl | rfl | rfl | rfl | rfl := hi <;> exact ⟨_, _, rfl, by decide⟩
  obtain ⟨hs, a, e, htov⟩ := hcontext
  rw [e]
  exact ⟨fun h hg hu => inRingContext_unserialised a h ((unserialised_iff s).2 ⟨hg, hu⟩),
    fun hh => inRingContext_otherHandler a hh htov⟩

end Sys2Proof.Machine
end

section
/-! SUPPORT. The clock read in a quiet schedule (R136, R137, R141): the run of `CLK.NOW` from N1 to N4 where the gaps hold
ticks alone, none of them wraps the counter, and no handler runs. -/

namespace Sys2Proof.Machine

/-! ### The overflow count -/

/-- Settles O20: the word is one byte, and the body is performed in its handler alone. -/
theorem clkProcess : Obligations.ClkProcess := by
  unfold Obligations.ClkProcess
  intro s
  refine ⟨rfl, fun h => ?_, fun h => ?_⟩
  · exact inHandler_eq _ h
  · exact if_neg h

/-! ### Gaps of ticks -/

/-- R267, R268: with interrupts off or no request true, service does nothing. -/
theorem Undisturbed.serveAll_eq_self {s : State} (h : Undisturbed s) : serveAll s = s := by
  have hnone : chooseIrq s = none := (chooseIrq_none s).2 (h.imp_left fun hg => by simp [State.mayTake, hg])
  have hserve : serve s = s := by simp [serve, hnone]
  simp [serveAll, hserve]

/-- R46: a tick that does not wrap the counter. -/
theorem counterTick_eq_later {s : State} (hc : s.hw.cnt + 1 < 2 ^ s.cfg.wCnt) : counterTick s = s.later 1 s.env := by
  simp [counterTick, State.later, addMod, Nat.mod_eq_of_lt hc]

theorem applyMoves_tickGap (n : Nat) {s : State} (hc : s.hw.cnt + n < 2 ^ s.cfg.wCnt) :
    applyMoves (tickGap n) s = s.later n s.env := by
  induction n generalizing s with
  | zero => rfl
  | succ n ih =>
    have htick : counterTick s = s.later 1 s.env := counterTick_eq_later (by omega)
    have hsum (a : Nat) : a + 1 + n = a + (n + 1) := by omega
    have hrest := ih (s := s.later 1 s.env) (by simpa [State.later, hsum] using hc)
    calc applyMoves (tickGap (n + 1)) s = applyMoves (tickGap n) (counterTick s) := rfl
      _ = (s.later 1 s.env).later n s.env := by rw [htick, hrest]; rfl
      _ = s.later (n + 1) s.env := by simp [State.later, hsum]

/-- R10, R46: a gap of ticks in which no handler will run and the counter does not wrap. -/
theorem gap_tickGap (n : Nat) {s : State} (h : Undisturbed s) (hc : s.hw.cnt + n < 2 ^ s.cfg.wCnt) :
    gap (tickGap n) s = s.later n s.env := by
  have hquiet : Undisturbed (s.later n s.env) := h
  rw [gap, applyMoves_tickGap n hc, hquiet.serveAll_eq_self]

/-! ### The run of a clock read -/

/-- The foreground of `s` stands before the step `ph` of its clock read, `n` ticks later, with `env` of the schedule left. -/
def State.reads (k : AfterNow) (s : State) (ph : NowPhase) (n : Nat) (env : List (List Move)) : State :=
  { s.later n env with fg := .now ph k }

theorem startNow_eq_reads (k : AfterNow) (s : State) : startNow k s = continueFg (s.reads k .n1 0 s.env) := rfl

/-- A labelled step with a gap after it, when the operation goes on and the schedule has a gap (R10). -/
theorem continueFg_gap {s t : State} {g : List Move} {gs : List (List Move)} (hstep : fgStep s = .next t)
    (hgo : t.fg.isIdle = false) (hs : s.env = g :: gs) (ht : t.env = g :: gs)
    (hgap : (gap g { t with env := gs }).env = gs) : continueFg s = continueFg (gap g { t with env := gs }) := by
  have hfuel : s.env.length + quietSteps = gs.length + quietSteps + 1 := by simp [hs]; omega
  rw [continueFg, hfuel, continueFg, hgap]
  simp [runFg, hstep, hgo, ht]

section
variable {s : State} {k : AfterNow} (hu : Undisturbed s)
include hu

/-- A labelled step of a clock read with a gap of ticks after it, none of which wraps the counter. -/
theorem reads_tickGap {ph ph' : NowPhase} {a : Nat} (b : Nat) {gs : List (List Move)}
    (hstep : nowStep ph k (s.reads k ph a (tickGap b :: gs)) = .next (s.reads k ph' a (tickGap b :: gs)))
    (hc : s.hw.cnt + (a + b) < 2 ^ s.cfg.wCnt) :
    continueFg (s.reads k ph a (tickGap b :: gs)) = continueFg (s.reads k ph' (a + b) gs) := by
  have hquiet : Undisturbed (s.reads k ph' a gs) := hu
  have hgap : gap (tickGap b) (s.reads k ph' a gs) = s.reads k ph' (a + b) gs := by
    rw [gap_tickGap b hquiet (by simpa [State.reads, State.later, Nat.add_assoc] using hc)]
    simp [State.reads, State.later, Nat.add_assoc]
  have hgo : fgStep (s.reads k ph a (tickGap b :: gs)) = .next (s.reads k ph' a (tickGap b :: gs)) := hstep
  exact (continueFg_gap hgo rfl rfl rfl (congrArg State.env hgap)).trans (congrArg continueFg hgap)

/-- The parts of a tally read after the first, with no tick between them (R66). -/
theorem reads_tallyParts (c1 a b : Nat) (l : Nat) (gs : List (List Move)) (hc : s.hw.cnt + (a + b) < 2 ^ s.cfg.wCnt) :
    continueFg (s.reads k (.n2rest c1 s.clk.tally s.clk.writes (l + 1)) a (List.replicate l [] ++ tickGap b :: gs)) =
      continueFg (s.reads k (.n3 c1 s.clk.tally) (a + b) gs) := by
  induction l with
  | zero => exact reads_tickGap hu b (by simp [nowStep, readTally, State.reads, State.later]) hc
  | succ l ih => exact (reads_tickGap hu 0 rfl (by omega)).trans ih

/-- N2 with its gaps: the tally is read while nothing writes it (R66, R137). -/
theorem reads_tally (c1 a b : Nat) (gs : List (List Move)) (hc : s.hw.cnt + (a + b) < 2 ^ s.cfg.wCnt) :
    continueFg (s.reads k (.n2 c1) a (tallyGaps s.cfg ++ tickGap b :: gs)) =
      continueFg (s.reads k (.n3 c1 s.clk.tally) (a + b) gs) := by
  obtain hone | hmore := le_or_gt (tallyParts s.cfg) 1
  · have hgaps : tallyGaps s.cfg = [] := by simp [tallyGaps, Nat.sub_eq_zero_of_le hone]
    rw [hgaps]
    exact reads_tickGap hu b (if_pos hone) hc
  · obtain ⟨l, hl⟩ := Nat.exists_eq_add_of_le' hmore
    have hgaps : tallyGaps s.cfg = tickGap 0 :: List.replicate l [] := by rw [tallyGaps, hl]; rfl
    have hparts : tallyParts s.cfg - 1 = l + 1 := by omega
    rw [hgaps]
    refine (reads_tickGap hu 0 (ph' := .n2rest c1 s.clk.tally s.clk.writes (l + 1)) ?_ (by omega)).trans
      (reads_tallyParts hu c1 a b l gs hc)
    exact (if_neg hmore.not_ge).trans (by rw [← hparts]; rfl)

/-- A clock read from N1 to N4 (R137): the counter is sampled before and after the tally. -/
theorem startNow_reads_n4 {n m : Nat} {gs : List (List Move)}
    (hs : s.env = tickGap n :: (tallyGaps s.cfg ++ tickGap m :: [] :: gs))
    (hc : s.hw.cnt + (n + m) < 2 ^ s.cfg.wCnt) :
    startNow k s = continueFg (s.reads k (.n4 s.hw.cnt s.clk.tally (s.hw.cnt + (n + m))) (n + m) gs) := by
  calc startNow k s
    _ = continueFg (s.reads k .n1 0 (tickGap n :: (tallyGaps s.cfg ++ tickGap m :: [] :: gs))) := by
      rw [startNow_eq_reads, hs]
    _ = continueFg (s.reads k (.n2 s.hw.cnt) (0 + n) (tallyGaps s.cfg ++ tickGap m :: [] :: gs)) :=
      reads_tickGap hu n rfl (by omega)
    _ = continueFg (s.reads k (.n2 s.hw.cnt) n (tallyGaps s.cfg ++ tickGap m :: [] :: gs)) := by rw [Nat.zero_add]
    _ = continueFg (s.reads k (.n3 s.hw.cnt s.clk.tally) (n + m) ([] :: gs)) := reads_tally hu _ n m _ hc
    _ = continueFg (s.reads k (.n4 s.hw.cnt s.clk.tally (s.hw.cnt + (n + m))) (n + m) gs) := reads_tickGap hu 0 rfl hc

/-- N4 with its gap: the samples are accepted, or the reading starts again (R137, R141). -/
theorem reads_n4 (c1 o c2 a : Nat) (gs : List (List Move)) (hc : s.hw.cnt + a < 2 ^ s.cfg.wCnt) :
    continueFg (s.reads k (.n4 c1 o c2) a ([] :: gs)) =
      continueFg (s.reads k (if sampleAccepted s.cfg c1 c2 then .n5 o c2 else .n1) a gs) :=
  reads_tickGap hu 0 rfl hc

end

/-- A clock read under the schedule of one reading comes to N5 with the clock at its second sample (R137, R138). -/
theorem Reading.startNow {n m : Nat} {rest : List (List Move)} {s : State} (h : Reading n m rest s) (k : AfterNow) :
    Machine.startNow k s = continueFg (s.reads k (.n5 s.clk.tally (s.hw.cnt + (n + m))) (n + m) rest) := by
  rw [startNow_reads_n4 h.undisturbed h.schedule h.no_wrap, reads_n4 h.undisturbed _ _ _ _ _ h.no_wrap, if_pos h.accepted]

/-- Equal samples that retry start the reading again (R141). -/
theorem startNow_equalSamples {s : State} {r : List (List Move)} (k : AfterNow) (hu : Undisturbed s)
    (hs : s.env = [] :: (tallyGaps s.cfg ++ [] :: [] :: [] :: r)) (hc : s.hw.cnt < 2 ^ s.cfg.wCnt)
    (hr : s.cfg.retryOnEqual = true) : startNow k s = startNow k { s with env := r } := by
  have hretry : sampleAccepted s.cfg s.hw.cnt (s.hw.cnt + (0 + 0)) = false := by simp [sampleAccepted, hr]
  rw [startNow_reads_n4 (n := 0) (m := 0) hu hs hc, reads_n4 hu _ _ _ _ _ hc, hretry]
  rfl

/-- R281: `CLK.NOW` where it may be issued. -/
theorem exec_clkNow {s : State} (h : Ready s) : exec .clkNow s = startNow .clkNow s :=
  inForeground_idle _ h.1 h.2

theorem continueFg_clkNow_n5 (s : State) (o c2 n : Nat) (env : List (List Move)) :
    continueFg (s.reads .clkNow (.n5 o c2) n env) = .next (finish (.time (wideTime s.cfg o c2)) (s.later n env)) := rfl

/-- Settles O21: one reading, and one after a reading whose samples were equal. -/
theorem clkNow : Obligations.ClkNow := by
  unfold Obligations.ClkNow
  intro n m rest s
  refine ⟨fun h => ?_, fun r hs h hr => ?_⟩
  · rw [exec_clkNow h.ready, h.startNow, continueFg_clkNow_n5]
  · have hready : Ready s := h.ready
    have hu : Undisturbed s := h.undisturbed
    have hc : s.hw.cnt < 2 ^ s.cfg.wCnt := (Nat.le_add_right ..).trans_lt h.no_wrap
    rw [exec_clkNow hready, startNow_equalSamples .clkNow hu hs hc hr, h.startNow, continueFg_clkNow_n5]
    rfl

end Sys2Proof.Machine
end

section
/-! SUPPORT. The clock guarantee (R139): through every gap with fewer ticks than a counter period the clock stays in step with
the ticks, and a clock read whose samples span less than a period returns the ticks at its second sample. -/

namespace Sys2Proof.Machine

/-! ### A gap of less than a counter period -/

theorem gapTicks_cons (m : Move) (g : List Move) :
    gapTicks (m :: g) = (if m = .event .tick then 1 else 0) + gapTicks g := by
  by_cases h : m = .event .tick <;> simp [gapTicks, h, Nat.add_comm]

/-- R47: a tick keeps the count right, unless it wraps the counter while an overflow is pending, which would be lost. -/
theorem Counts.counterTick {P : Params} {n : Nat} {s : State} (h : Counts P n s)
    (hlost : s.hw.tovPending = true → ¬ 2 ^ P.wCnt ∣ n + 1) : Counts P (n + 1) (counterTick s) := by
  obtain ⟨rfl, rfl, hfree, hcounter, htally⟩ := h
  cases hp : s.hw.tovPending
  · have hsynced : Synced s := Counts.synced ⟨rfl, rfl, hfree, hcounter, htally⟩ hp
    exact hsynced.counterTick_counts hfree
  · refine ⟨rfl, rfl, hfree, by simp [addMod, hcounter], ?_⟩
    simpa [hp, Nat.succ_div, hlost hp] using htally

/-- A handler leaves the place of the foreground and the schedule alone (R266). -/
theorem runHandler_place (x : Handler) (s : State) : (runHandler x s).fg = s.fg ∧ (runHandler x s).env = s.env := by
  rw [runHandler_eq]
  cases x with
  | tov => exact ⟨rfl, rfl⟩
  | rxc => simp only [handlerBody]; rw [processRx_frame]; exact ⟨rfl, rfl⟩
  | dre => simp only [handlerBody]; rw [intrTx_frame]; exact ⟨rfl, rfl⟩

/-- Only ISR_TOV touches the clock (R136, R266). -/
theorem runHandler_clock {x : Handler} (hx : x ≠ .tov) (s : State) :
    (runHandler x s).clk = s.clk ∧ (runHandler x s).hw.tovPending = s.hw.tovPending := by
  rw [runHandler_eq]
  cases x with
  | tov => exact absurd rfl hx
  | rxc => simp only [handlerBody]; rw [processRx_frame]; simp
  | dre => simp only [handlerBody]; rw [intrTx_frame]; simp

/-- How often the tally has been written once the overflow that is pending is served. -/
def State.writesDue (s : State) : Nat := s.clk.writes + if s.hw.tovPending then 1 else 0

/-- `u` stands in the gap that begins at `s`, `n` ticks into it: the clock counts, the tally has been written once for every
wrap that is not pending, and an overflow is pending only after a wrap in this gap. -/
structure InGap (s : State) (n : Nat) (u : State) : Prop where
  counts : Counts s.cfg (s.ticks + n) u
  writes : u.writesDue + s.ticks / 2 ^ s.cfg.wCnt = s.clk.writes + (s.ticks + n) / 2 ^ s.cfg.wCnt
  wrapped : u.hw.tovPending = true → s.ticks / 2 ^ s.cfg.wCnt < (s.ticks + n) / 2 ^ s.cfg.wCnt
  fg : u.fg = s.fg
  env : u.env = s.env

theorem InGap.start {s : State} (hs : Synced s) (hm : s.mayTake = true) : InGap s 0 s where
  counts := hs.counts hm
  writes := by simp [State.writesDue, hs.none_pending]
  wrapped hp := absurd hp (by simp [hs.none_pending])
  fg := rfl
  env := rfl

/-- A counter that has wrapped in the gap does not wrap again within a period. -/
theorem InGap.not_lost {s u : State} {n : Nat} (h : InGap s n u) (hn : n + 1 < 2 ^ s.cfg.wCnt)
    (hp : u.hw.tovPending = true) : ¬ 2 ^ s.cfg.wCnt ∣ s.ticks + n + 1 := fun hd => by
  have htwice : (s.ticks + n + 1) / 2 ^ s.cfg.wCnt = (s.ticks + n) / 2 ^ s.cfg.wCnt + 1 := Nat.succ_div_of_dvd hd
  have honce : (s.ticks + n + 1) / 2 ^ s.cfg.wCnt ≤ (s.ticks + 2 ^ s.cfg.wCnt) / 2 ^ s.cfg.wCnt :=
    Nat.div_le_div_right (by omega)
  rw [Nat.add_div_right _ (Nat.two_pow_pos _)] at honce
  have hwrapped := h.wrapped hp
  omega

/-- R46, R47: a tick of the gap; if it wraps the counter, one more write of the tally is due. -/
theorem InGap.tick {s u : State} {n : Nat} (h : InGap s n u) (hn : n + 1 < 2 ^ s.cfg.wCnt) :
    InGap s (n + 1) (counterTick u) := by
  have hcounts : Counts s.cfg (s.ticks + n + 1) (counterTick u) := h.counts.counterTick (h.not_lost hn)
  have hflag : (counterTick u).hw.tovPending = (u.hw.tovPending || decide (2 ^ s.cfg.wCnt ∣ s.ticks + n + 1)) := by
    simp [addMod, h.counts.cfg, h.counts.counter, Nat.dvd_iff_mod_eq_zero, beq_eq_decide]
  have hclk : (counterTick u).clk = u.clk := rfl
  have hwrites := h.writes
  by_cases hd : 2 ^ s.cfg.wCnt ∣ s.ticks + n + 1
  · have hquot : (s.ticks + (n + 1)) / 2 ^ s.cfg.wCnt = (s.ticks + n) / 2 ^ s.cfg.wCnt + 1 := Nat.succ_div_of_dvd hd
    have hbefore : u.hw.tovPending = false := Bool.eq_false_iff.2 fun hp => h.not_lost hn hp hd
    have hmono : s.ticks / 2 ^ s.cfg.wCnt ≤ (s.ticks + n) / 2 ^ s.cfg.wCnt := Nat.div_le_div_right (by omega)
    have hdue : (counterTick u).writesDue = u.writesDue + 1 := by
      rw [State.writesDue, hflag, hclk, State.writesDue]
      simp [hd, hbefore]
    exact ⟨hcounts, by omega, fun _ => by omega, h.fg, h.env⟩
  · have hquot : (s.ticks + (n + 1)) / 2 ^ s.cfg.wCnt = (s.ticks + n) / 2 ^ s.cfg.wCnt := Nat.succ_div_of_not_dvd hd
    have hsame : (counterTick u).hw.tovPending = u.hw.tovPending := by simpa [hd] using hflag
    have hdue : (counterTick u).writesDue = u.writesDue := by rw [State.writesDue, hsame, hclk, State.writesDue]
    exact ⟨hcounts, by rw [hdue, hquot, hwrites], fun hp => by rw [hquot]; exact h.wrapped (hsame ▸ hp), h.fg, h.env⟩

/-- A handler serves the overflow that is pending, or leaves the clock alone. -/
theorem InGap.handler {s u : State} {n : Nat} {x : Handler} (hc : chooseIrq u = some x) (h : InGap s n u) :
    InGap s n (runHandler x u) := by
  obtain ⟨hfg, henv⟩ := runHandler_place x u
  obtain ⟨-, -, hreq⟩ := chooseIrq_some hc
  have hcounts := runHandler_keeps_counts hc h.counts
  by_cases hx : x = .tov
  · subst hx
    have hpending : u.hw.tovPending = true := hreq
    have hserved : (runHandler .tov u).hw.tovPending = false := by simp [runHandler, handlerBody]
    have hdue : (runHandler .tov u).writesDue = u.writesDue := by
      simp [State.writesDue, hpending, runHandler, handlerBody]
    exact ⟨hcounts, hdue ▸ h.writes, fun hp => absurd hp (by simp [hserved]), hfg.trans h.fg, henv.trans h.env⟩
  · obtain ⟨hclk, hpending⟩ := runHandler_clock hx u
    have hdue : (runHandler x u).writesDue = u.writesDue := by simp [State.writesDue, hclk, hpending]
    exact ⟨hcounts, hdue ▸ h.writes, hpending ▸ h.wrapped, hfg.trans h.fg, henv.trans h.env⟩

/-- Only a tick moves the clock (R46 to R51). -/
theorem InGap.otherEvent {s u : State} {n : Nat} {e : EnvEvent} (he : e ≠ .tick) (h : InGap s n u) :
    InGap s n (e.apply u) := by
  obtain ⟨⟨hcfg, hticks, hfree, hcounter, htally⟩, hwrites, hwrapped, hfg, henv⟩ := h
  cases e with
  | tick => exact absurd rfl he
  | rx | txDone | adcDone => exact ⟨⟨hcfg, hticks, hfree, hcounter, htally⟩, hwrites, hwrapped, hfg, henv⟩

theorem InGap.move {s u : State} {n : Nat} {m : Move} (hr : m ≠ .reset)
    (hn : n + (if m = .event .tick then 1 else 0) < 2 ^ s.cfg.wCnt) (h : InGap s n u) :
    InGap s (n + if m = .event .tick then 1 else 0) (applyMove u m) := by
  cases m with
  | reset => exact absurd rfl hr
  | irq => exact serve_keeps (fun _ _ hc hu => hu.handler hc) h
  | event e =>
    by_cases he : e = .tick
    · subst he
      exact h.tick hn
    · simp only [applyMove, envStep, Move.event.injEq, he, if_false]
      split
      · exact h.otherEvent he
      · exact h

theorem InGap.moves {s u : State} {n : Nat} {g : List Move} (hr : Move.reset ∉ g)
    (hn : n + gapTicks g < 2 ^ s.cfg.wCnt) (h : InGap s n u) : InGap s (n + gapTicks g) (applyMoves g u) := by
  induction g generalizing n u with
  | nil => exact h
  | cons m g ih =>
    rw [gapTicks_cons, ← Nat.add_assoc] at hn ⊢
    obtain ⟨hm, hg⟩ := not_or.1 (List.mem_cons.not.1 hr)
    exact ih hg hn (h.move (Ne.symm hm) ((Nat.le_add_right ..).trans_lt hn))

/-- R268: after a gap of less than a period the clock is in step with the ticks again. -/
theorem gap_inGap {s : State} {g : List Move} (hs : Synced s) (hm : s.mayTake = true) (hr : Move.reset ∉ g)
    (hn : gapTicks g < 2 ^ s.cfg.wCnt) : InGap s (gapTicks g) (gap g s) ∧ Synced (gap g s) := by
  have hmoves : InGap s (gapTicks g) (applyMoves g s) := by
    simpa using (InGap.start hs hm).moves hr (by simpa using hn)
  exact ⟨serveAll_keeps (fun _ _ hc hu => hu.handler hc) hmoves, hmoves.counts.after_service.2⟩

/-! ### Runs -/

/-- The gap after a labelled step, quiet where the schedule has run out (R10, log 3). -/
def afterGap (s : State) : State := gap (s.env.headD []) { s with env := s.env.tail }

theorem afterGap_cases (s : State) :
    (s.env = [] ∧ afterGap s = serveAll s) ∨ (∃ g gs, s.env = g :: gs ∧ afterGap s = gap g { s with env := gs }) := by
  cases h : s.env with
  | nil =>
    have hsame : { s with env := [] } = s := by rw [← h]
    exact .inl ⟨rfl, by simp [afterGap, h, hsame, gap, applyMoves]⟩
  | cons g gs => exact .inr ⟨g, gs, rfl, by simp [afterGap, h]⟩

/-- A run stops after a labelled step or after the gap that follows one: what holds before each labelled step (`P`) and
after it (`Q`) holds there. -/
theorem runFg_boundaries {P Q : State → Prop} (hstep : ∀ s t, P s → fgStep s = .next t → Q t)
    (hgap : ∀ t, Q t → t.fg.isIdle = false → P (afterGap t)) (n : Nat) {s t : State} (h : P s)
    (e : runFg n s = .next t) : Q t ∨ P t := by
  induction n generalizing s with
  | zero => exact .inl (hstep s t h e)
  | succ n ih =>
    unfold runFg at e
    split at e
    · next s1 h1 =>
      have hq := hstep s s1 h h1
      split at e
      · cases e; exact .inl hq
      · next hidle =>
        have hp := hgap s1 hq (Bool.eq_false_iff.2 hidle)
        obtain ⟨hnil, hquiet⟩ | ⟨g, gs, hcons, hmoves⟩ := afterGap_cases s1
        · rw [hquiet] at hp
          simp only [hnil] at e
          split at e
          · cases e; exact .inr hp
          · exact ih hp e
        · rw [hmoves] at hp
          simp only [hcons] at e
          exact ih hp e
    · cases e
    · cases e

/-! ### The ticks of a schedule -/

/-- The ticks when `j` gaps of the schedule of `s` have passed. -/
def ticksAt (s : State) (j : Nat) : Nat := s.ticks + ((s.env.take j).map gapTicks).sum

/-- How often the counter has wrapped when `j` gaps have passed. -/
def wrapsAt (s : State) (j : Nat) : Nat := ticksAt s j / 2 ^ s.cfg.wCnt

theorem ticksAt_add (s : State) (i k : Nat) :
    ticksAt s (i + k) = ticksAt s i + (((s.env.drop i).take k).map gapTicks).sum := by
  simp [ticksAt, List.take_add, Nat.add_assoc]

theorem ticksAt_succ (s : State) (j : Nat) : ticksAt s (j + 1) = ticksAt s j + gapTicks ((s.env.drop j).headD []) := by
  rw [ticksAt_add]
  cases s.env.drop j <;> simp [gapTicks]

theorem ticksAt_mono {s : State} {i j : Nat} (h : i ≤ j) : ticksAt s i ≤ ticksAt s j := by
  obtain ⟨k, rfl⟩ := Nat.exists_eq_add_of_le h
  rw [ticksAt_add]
  exact Nat.le_add_right ..

theorem wrapsAt_mono {s : State} {i j : Nat} (h : i ≤ j) : wrapsAt s i ≤ wrapsAt s j :=
  Nat.div_le_div_right (ticksAt_mono h)

/-- Premise (b) of R139: fewer ticks than a period from N1 to N3. -/
theorem FewTicks.ticksAt_lt {s : State} {k : Nat} (h : FewTicks k (2 ^ s.cfg.wCnt) s.env) {i j : Nat} (hj : j ≤ i + k) :
    ticksAt s j < ticksAt s i + 2 ^ s.cfg.wCnt := by
  have hlast : ticksAt s (i + k) < ticksAt s i + 2 ^ s.cfg.wCnt := by
    rw [ticksAt_add]
    exact Nat.add_lt_add_left (h i) _
  exact (ticksAt_mono hj).trans_lt hlast

/-- Within less than a period, samples that do not fall have no wrap between them (R138). -/
theorem div_eq_of_mod_le {a b M : Nat} (hab : a ≤ b) (hb : b < a + M) (hmod : a % M ≤ b % M) : b / M = a / M := by
  have ha := Nat.div_add_mod a M
  have hb' := Nat.div_add_mod b M
  have hle : a / M ≤ b / M := Nat.div_le_div_right hab
  by_contra hne
  have hmore : M * (a / M + 1) ≤ M * (b / M) := Nat.mul_le_mul_left M (by omega)
  rw [Nat.mul_add, Nat.mul_one] at hmore
  omega

/-- R96, R139: the composite of a count of wraps and a counter is the count of ticks. -/
theorem wideTime_ticks (P : Params) (n : Nat) :
    wideTime P (n / 2 ^ P.wCnt % 2 ^ P.wOvf) (n % 2 ^ P.wCnt) = n % 2 ^ P.wTime := by
  rw [wideTime, Params.wTime, Nat.add_comm P.wOvf, pow_add, Nat.mod_mul, Nat.mul_comm, Nat.add_comm]

/-! ### The clock along a reading -/

/-- `u` stands in the run from `s` where `j` gaps of the schedule have passed, and the clock is in step with the ticks. -/
structure Passed (s : State) (j : Nat) (u : State) : Prop where
  cfg : u.cfg = s.cfg
  env : u.env = s.env.drop j
  ticks : u.ticks = ticksAt s j
  writes : u.clk.writes + s.ticks / 2 ^ s.cfg.wCnt = s.clk.writes + wrapsAt s j
  free : u.mayTake = true
  synced : Synced u

/-- A labelled step of `CLK.NOW` writes nothing that the clock or the schedule stands in. -/
theorem Passed.of_same {s u t : State} {j : Nat} (h : Passed s j u) (cfg : t.cfg = u.cfg := by rfl)
    (env : t.env = u.env := by rfl) (ticks : t.ticks = u.ticks := by rfl) (clk : t.clk = u.clk := by rfl)
    (hw : t.hw = u.hw := by rfl) (cpu : t.cpu = u.cpu := by rfl) : Passed s j t where
  cfg := cfg.trans h.cfg
  env := env.trans h.env
  ticks := ticks.trans h.ticks
  writes := clk ▸ h.writes
  free := by rw [State.mayTake, cpu]; exact h.free
  synced := by
    obtain ⟨hcounter, htally, hnone⟩ := h.synced
    exact ⟨by rw [hw, ticks, cfg, hcounter], by rw [clk, ticks, cfg, htally], by rw [hw, hnone]⟩

theorem Passed.counter {s u : State} {j : Nat} (h : Passed s j u) : u.hw.cnt = ticksAt s j % 2 ^ s.cfg.wCnt := by
  rw [h.synced.counter, h.cfg, h.ticks]

theorem Passed.tally {s u : State} {j : Nat} (h : Passed s j u) : u.clk.tally = wrapsAt s j % 2 ^ s.cfg.wOvf := by
  rw [h.synced.tally, h.cfg, h.ticks, wrapsAt]

theorem Passed.start {s : State} (hs : Synced s) (hm : s.mayTake = true) : Passed s 0 s where
  cfg := rfl
  env := rfl
  ticks := by simp [ticksAt]
  writes := by simp [wrapsAt, ticksAt]
  free := hm
  synced := hs

/-- The gap after a labelled step (R268). -/
theorem Passed.afterGap {s u : State} {j : Nat} (h : Passed s j u) (hr : NoReset s.env)
    (hn : ticksAt s (j + 1) < ticksAt s j + 2 ^ s.cfg.wCnt) :
    Passed s (j + 1) (afterGap u) ∧ (Machine.afterGap u).fg = u.fg := by
  have hticks := ticksAt_succ s j
  have hreset : Move.reset ∉ u.env.headD [] := by
    cases hu : u.env with
    | nil => exact List.not_mem_nil
    | cons g gs => exact hr g (List.mem_of_mem_drop (h.env ▸ hu ▸ List.mem_cons_self ..))
  rw [← h.env] at hticks
  have hfew : gapTicks (u.env.headD []) < 2 ^ u.cfg.wCnt := by rw [h.cfg]; omega
  have hfrom : Synced { u with env := u.env.tail } := ⟨h.synced.counter, h.synced.tally, h.synced.none_pending⟩
  obtain ⟨hgap, hsynced⟩ : InGap { u with env := u.env.tail } _ (Machine.afterGap u) ∧ Synced (Machine.afterGap u) :=
    gap_inGap hfrom h.free hreset hfew
  have hnow : (Machine.afterGap u).ticks = ticksAt s (j + 1) := by
    rw [hticks, ← h.ticks]
    exact hgap.counts.ticks
  have hwrites : (Machine.afterGap u).clk.writes + wrapsAt s j = u.clk.writes + wrapsAt s (j + 1) := by
    have hdue : (Machine.afterGap u).writesDue = (Machine.afterGap u).clk.writes := by
      simp [State.writesDue, hsynced.none_pending]
    simpa only [hdue, h.cfg, h.ticks, ← hticks, wrapsAt] using hgap.writes
  have hbefore := h.writes
  refine ⟨⟨hgap.counts.cfg.trans h.cfg, ?_, hnow, by omega, hgap.counts.free, hsynced⟩, hgap.fg⟩
  rw [hgap.env, h.env, List.tail_drop]

/-! ### The phases of a reading -/

/-- What the locals of a `CLK.NOW` are where `j` gaps have passed (R137): the samples are those of N1 and N3, and the tally
is that of N3 unless the counter has wrapped since N1. A tally read of several parts has the value and the writes of its
first part. -/
def ReadsAt (s : State) (j : Nat) : NowPhase → Prop
  | .n1 => True
  | .n2 c1 => ∃ i, j = i + 1 ∧ c1 = ticksAt s i % 2 ^ s.cfg.wCnt
  | .n2rest c1 o writes left => ∃ i, j + left = i + tallyParts s.cfg + 1 ∧ 1 ≤ left ∧ left < tallyParts s.cfg ∧
      c1 = ticksAt s i % 2 ^ s.cfg.wCnt ∧ o = wrapsAt s (i + 1) % 2 ^ s.cfg.wOvf ∧
      writes + s.ticks / 2 ^ s.cfg.wCnt = s.clk.writes + wrapsAt s (i + 1)
  | .n3 c1 o => ∃ i, j = i + tallyParts s.cfg + 1 ∧ c1 = ticksAt s i % 2 ^ s.cfg.wCnt ∧
      (wrapsAt s j = wrapsAt s i → o = wrapsAt s j % 2 ^ s.cfg.wOvf)
  | .n4 c1 o c2 => ∃ i, j = i + 1 ∧ c2 = ticksAt s i % 2 ^ s.cfg.wCnt ∧
      (c1 ≤ c2 → o = wrapsAt s i % 2 ^ s.cfg.wOvf)
  | .n5 o c2 => ∃ i, j = i + 2 ∧ c2 = ticksAt s i % 2 ^ s.cfg.wCnt ∧ o = wrapsAt s i % 2 ^ s.cfg.wOvf

/-- A `CLK.NOW` issued in `s` stands in `u` before the labelled step after gap `j`. -/
structure InReading (s : State) (j : Nat) (u : State) : Prop where
  passed : Passed s j u
  place : ∃ ph, u.fg = .now ph .clkNow ∧ ReadsAt s j ph

/-- A `CLK.NOW` issued in `s` has made the labelled step after gap `j`: it goes on after the next gap, or it has returned the
ticks at its N3. -/
structure AfterReadStep (s : State) (j : Nat) (t : State) : Prop where
  passed : Passed s j t
  place : (∃ ph, t.fg = .now ph .clkNow ∧ ReadsAt s (j + 1) ph) ∨
    (t.fg = .idle ∧ ∃ i, j = i + 2 ∧ t.result = .time (ticksAt s i % 2 ^ s.cfg.wTime))

theorem wrapsAt_squeeze {s : State} {i j k : Nat} (hij : i ≤ j) (hjk : j ≤ k) (h : wrapsAt s k = wrapsAt s i) :
    wrapsAt s j = wrapsAt s k :=
  le_antisymm (wrapsAt_mono hjk) (h ▸ wrapsAt_mono hij)

theorem sampleAccepted_le {P : Params} {c1 c2 : Nat} (h : sampleAccepted P c1 c2 = true) : c1 ≤ c2 := by
  unfold sampleAccepted at h
  split at h
  · exact (of_decide_eq_true h).le
  · exact of_decide_eq_true h

/-- R6, R66: a tally read has at least one part. -/
theorem tallyParts_pos {P : Params} (h : P.valid = true) : 1 ≤ tallyParts P := by
  simp only [Params.valid, Bool.and_eq_true, Bool.or_eq_true, beq_iff_eq, decide_eq_true_eq] at h
  obtain ⟨⟨⟨⟨⟨⟨⟨⟨⟨-, hovf⟩, -⟩, hatomic⟩, -⟩, -⟩, -⟩, -⟩, -⟩, -⟩ := h
  have hpos : 0 < P.atomicW := by omega
  exact (Nat.one_le_div_iff hpos).2 (by omega)

section
variable {s u : State} {j : Nat} (hu : Passed s j u)
include hu

theorem readStep_n1 : AfterReadStep s j (sampleFirst .clkNow u) where
  passed := hu.of_same
  place := .inl ⟨_, rfl, j, rfl, hu.counter⟩

theorem readStep_n2 {c1 : Nat} {t : State} (hparts : 1 ≤ tallyParts s.cfg) (h : ReadsAt s j (.n2 c1))
    (e : nowStep (.n2 c1) .clkNow u = .next t) : AfterReadStep s j t := by
  obtain ⟨i, rfl, hc1⟩ := h
  simp only [nowStep, hu.cfg] at e
  split at e
  · next hone =>
    cases e
    refine ⟨hu.of_same hu.cfg.symm, .inl ⟨_, rfl, i, by omega, hc1, fun hw => ?_⟩⟩
    rw [hu.tally, wrapsAt_squeeze (by omega) (by omega) hw]
  · cases e
    exact ⟨hu.of_same hu.cfg.symm, .inl ⟨_, rfl, i, by omega, by omega, by omega, hc1, hu.tally, hu.writes⟩⟩

/-- A torn tally is only seen where a wrap has been served between the parts, and then between N1 and N3 (R66, R138). -/
theorem readStep_n2rest {c1 o writes left : Nat} {t : State} (h : ReadsAt s j (.n2rest c1 o writes left))
    (e : nowStep (.n2rest c1 o writes left) .clkNow u = .next t) : AfterReadStep s j t := by
  obtain ⟨i, hj, hpos, hlt, hc1, ho, hw⟩ := h
  have hwrites := hu.writes
  simp only [nowStep] at e
  split at e
  · cases e
    unfold readTally
    split
    · refine ⟨hu.of_same, .inl ⟨_, rfl, i, by omega, hc1, fun hsame => ?_⟩⟩
      rw [ho, wrapsAt_squeeze (by omega) (by omega) hsame]
    · next hne =>
      refine ⟨hu.of_same, .inl ⟨_, rfl, i, by omega, hc1, fun hsame => absurd ?_ hne⟩⟩
      have hfirst : wrapsAt s (i + 1) = wrapsAt s (j + 1) := wrapsAt_squeeze (by omega) (by omega) hsame
      have hlast : wrapsAt s j = wrapsAt s (j + 1) := wrapsAt_squeeze (by omega) (by omega) hsame
      omega
  · cases e
    exact ⟨hu.of_same, .inl ⟨_, rfl, i, by omega, by omega, by omega, hc1, ho, hw⟩⟩

/-- Where the second sample is not below the first, no wrap lies between them (R138). -/
theorem readStep_n3 {c1 o : Nat} (hfew : FewTicks (tallyParts s.cfg + 1) (2 ^ s.cfg.wCnt) s.env)
    (h : ReadsAt s j (.n3 c1 o)) : AfterReadStep s j { u with fg := .now (.n4 c1 o u.hw.cnt) .clkNow } := by
  obtain ⟨i, hj, hc1, ho⟩ := h
  refine ⟨hu.of_same, .inl ⟨_, rfl, j, rfl, hu.counter, fun hle => ho ?_⟩⟩
  rw [hc1, hu.counter] at hle
  exact div_eq_of_mod_le (ticksAt_mono (by omega)) (hfew.ticksAt_lt (by omega)) hle

theorem readStep_n4 {c1 o c2 : Nat} (h : ReadsAt s j (.n4 c1 o c2)) : AfterReadStep s j
    { u with fg := .now (if sampleAccepted u.cfg c1 c2 then .n5 o c2 else .n1) .clkNow } := by
  obtain ⟨i, rfl, hc2, ho⟩ := h
  refine ⟨hu.of_same, .inl ⟨_, rfl, ?_⟩⟩
  split
  · next haccepted => exact ⟨i, rfl, hc2, ho (sampleAccepted_le haccepted)⟩
  · trivial

theorem readStep_n5 {o c2 : Nat} (h : ReadsAt s j (.n5 o c2)) :
    AfterReadStep s j (finish (.time (wideTime u.cfg o c2)) u) := by
  obtain ⟨i, rfl, rfl, rfl⟩ := h
  exact ⟨hu.of_same, .inr ⟨rfl, i, rfl, by rw [finish_result, hu.cfg, wrapsAt, wideTime_ticks]⟩⟩

end

section
variable {s : State} (hvalid : s.cfg.valid = true) (hr : NoReset s.env)
  (hfew : FewTicks (tallyParts s.cfg + 1) (2 ^ s.cfg.wCnt) s.env)

include hvalid hfew in
theorem InReading.step {j : Nat} {u t : State} (h : InReading s j u) (e : fgStep u = .next t) : AfterReadStep s j t := by
  obtain ⟨hu, ph, hfg, hph⟩ := h
  have hnow : nowStep ph .clkNow u = .next t := by simpa [fgStep, hfg] using e
  cases ph with
  | n1 => cases hnow; exact readStep_n1 hu
  | n2 c1 => exact readStep_n2 hu (tallyParts_pos hvalid) hph hnow
  | n2rest c1 o writes left => exact readStep_n2rest hu hph hnow
  | n3 c1 o => cases hnow; exact readStep_n3 hu hfew hph
  | n4 c1 o c2 => cases hnow; exact readStep_n4 hu hph
  | n5 o c2 => cases hnow; exact readStep_n5 hu hph

include hr hfew in
theorem AfterReadStep.afterGap {j : Nat} {t : State} (h : AfterReadStep s j t) (hgo : t.fg.isIdle = false) :
    InReading s (j + 1) (Machine.afterGap t) := by
  obtain ⟨ht, ⟨ph, hfg, hph⟩ | ⟨hidle, -⟩⟩ := h
  · obtain ⟨hpassed, hplace⟩ := ht.afterGap hr (hfew.ticksAt_lt (by omega))
    exact ⟨hpassed, ph, hplace.trans hfg, hph⟩
  · simp [hidle, Fg.isIdle] at hgo

include hvalid hr hfew in
/-- A machine step that issues a `CLK.NOW` ends after one of its labelled steps, or after a gap inside it. -/
theorem startNow_reading {t : State} (hs : Synced s) (hm : s.mayTake = true) (e : startNow .clkNow s = .next t) :
    ∃ j, AfterReadStep s j t ∨ InReading s j t := by
  have hstart : InReading s 0 { s with fg := .now .n1 .clkNow } :=
    ⟨(Passed.start hs hm).of_same, .n1, rfl, trivial⟩
  obtain ⟨j, h⟩ | ⟨j, h⟩ := runFg_boundaries (P := fun u => ∃ j, InReading s j u) (Q := fun u => ∃ j, AfterReadStep s j u)
    (fun _ _ ⟨j, h⟩ hstep => ⟨j, h.step hvalid hfew hstep⟩) (fun _ ⟨j, h⟩ hgo => ⟨j + 1, h.afterGap hr hfew hgo⟩) _
    ⟨0, hstart⟩ e
  · exact ⟨j, .inl h⟩
  · exact ⟨j, .inr h⟩

end

/-- Settles O22: the clock is in step with the ticks at every labelled step, so samples that are accepted bracket a tally
that is the number of wraps at N3. -/
theorem clkGuarantee : Obligations.ClkGuarantee := by
  unfold Obligations.ClkGuarantee
  intro s t hvalid hready hgie _ hs hr hfew e
  have hm : s.mayTake = true := by simp [State.mayTake, Cpu.inIsr, hgie, hready.1]
  rw [exec_clkNow hready] at e
  obtain ⟨j, ⟨ht, hplace⟩ | ⟨ht, ph, hfg, -⟩⟩ := startNow_reading hvalid hr hfew hs hm e
  · refine ⟨ht.synced, fun hidle => ?_⟩
    obtain ⟨ph, hfg, -⟩ | ⟨-, i, rfl, hresult⟩ := hplace
    · simp [hidle] at hfg
    · refine ⟨s.env.take i, (s.env.drop i).take 2, ?_, List.length_take_le .., fun hleft => ?_, hresult⟩
      · rw [ht.env, ← List.drop_drop, List.append_assoc, List.take_append_drop, List.take_append_drop]
      · have hmore : i + 2 < s.env.length := Nat.lt_of_not_le (List.drop_eq_nil_iff.not.1 (ht.env ▸ hleft))
        simp only [List.length_take, List.length_drop]
        omega
  · exact ⟨ht.synced, fun hidle => by simp [hidle] at hfg⟩

end Sys2Proof.Machine
end

section
/-! SUPPORT. What happens beside the foreground (R10, R266, R268): an environment step or a handler neither reads nor
writes what belongs to the foreground alone. -/

namespace Sys2Proof.Machine

/-- `s` with the fields that only the foreground touches taken from `u`: the components of R29 to R33, the place of the
foreground, its result, and what is still to be issued or to happen. -/
def State.withForeground (s u : State) : State :=
  { s with dl := u.dl, sw := u.sw, cf := u.cf, adc := u.adc, bl := u.bl, fg := u.fg, result := u.result,
           issue := u.issue, env := u.env }

@[simp] theorem State.withForeground_cfg (s u : State) : (s.withForeground u).cfg = s.cfg := rfl
@[simp] theorem State.withForeground_sp (s u : State) : (s.withForeground u).sp = s.sp := rfl
@[simp] theorem State.withForeground_hw (s u : State) : (s.withForeground u).hw = s.hw := rfl

/-- `f` neither reads nor writes what only the foreground touches. -/
abbrev ForegroundBlind (f : State → State) : Prop := ∀ s u : State, f (s.withForeground u) = (f s).withForeground u

/-- What shows the foreground of `u` shows it after anything beside the foreground. -/
theorem ForegroundBlind.shows {f : State → State} (hf : ForegroundBlind f) {s u : State} (h : s.withForeground u = s) :
    (f s).withForeground u = f s := by
  rw [← hf, h]

/-! ### Handlers -/

theorem filterByte_blind (b : Byte) : ForegroundBlind (filterByte b) := fun s u => by
  unfold State.withForeground filterByte
  dsimp only
  split <;> split <;> rfl

theorem bufferByte_blind (b : Byte) : ForegroundBlind (bufferByte b) := fun s u => by
  simp only [bufferByte, filterByte_blind b s u, State.withForeground_cfg, State.withForeground_sp]
  split <;> rfl

theorem takeFrame_blind (f : Frame) : ForegroundBlind (takeFrame f) := fun s u => by
  unfold takeFrame
  split <;> rfl

theorem intrRx_blind (f : Frame) : ForegroundBlind (intrRx f) := fun s u => by
  simp only [intrRx_eq, takeFrame_blind f s u, bufferByte_blind f.data _ u]
  split <;> rfl

theorem processRx_blind : ForegroundBlind processRx := fun s u => by
  simp only [processRx, State.withForeground_hw]
  split
  · exact intrRx_blind _ s u
  · rfl

theorem drainOne_blind : ForegroundBlind drainOne := fun s u => by
  unfold State.withForeground drainOne
  dsimp only
  split
  · split <;> rfl
  · rfl

theorem intrTx_blind : ForegroundBlind intrTx := fun s u => by
  simp only [intrTx, drainOne_blind s u, State.withForeground_sp, State.withForeground_hw]
  split <;> rfl

theorem handlerBody_blind (x : Handler) : ForegroundBlind (handlerBody x) := by
  cases x with
  | tov => exact fun _ _ => rfl
  | rxc => exact processRx_blind
  | dre => exact intrTx_blind

theorem runHandler_blind (x : Handler) : ForegroundBlind (runHandler x) := fun s u =>
  congrArg returnIrq (handlerBody_blind x (takeIrq x s) u)

theorem serve_blind : ForegroundBlind serve := fun s u => by
  have hchoice : chooseIrq (s.withForeground u) = chooseIrq s := rfl
  unfold serve
  rw [hchoice]
  split
  · exact runHandler_blind _ s u
  · rfl

theorem serveAll_blind : ForegroundBlind serveAll := fun s u => by
  simp only [serveAll, serve_blind _ u]

/-! ### Environment -/

theorem envStep_blind (e : EnvEvent) : ForegroundBlind (envStep e) := fun s u => by
  have henabled : e.enabled (s.withForeground u) = e.enabled s := by cases e <;> rfl
  unfold envStep
  rw [henabled]
  split
  · cases e <;> rfl
  · rfl

end Sys2Proof.Machine
end

section
/-! SUPPORT. An operation that reads the clock once (R137, R151 to R156; log 30): under any schedule it runs as
`CLK.NOW` does, labelled step by labelled step, and at N5 does its own part with the value. -/

namespace Sys2Proof.Machine

/-! ### What is done with the value -/

/-- The operation ends at N5 of its clock reading. -/
def AfterNow.ends : AfterNow → Bool
  | .clkNow | .dlNew _ _ | .dlElapsed _ | .dlRestart _ | .swNew _ | .swElapsed _ => true
  | .cfArm | .cfPayload _ | .blSignal | .blProcess => true
  | .pumpBlink _ _ | .waitBase _ | .waitTest _ _ => false

theorem afterNow_ends {k : AfterNow} (hk : k.ends = true) (v : Nat) (s : State) :
    Ensures (fun t => t.fg = .idle) (afterNow v k s) := by
  cases k with
  | clkNow | dlNew | swNew | cfArm | blSignal | blProcess => rfl
  | dlElapsed d | dlRestart d | swElapsed w => simp only [afterNow]; split <;> trivial
  | cfPayload b => simp only [afterNow, takePayload]; split <;> rfl
  | pumpBlink | waitBase | waitTest => cases hk

/-- R242: the phase change reads neither the place of the foreground nor its result. -/
theorem finish_blinkAt_place (v : Nat) (s : State) (l : Fg) (r : Result) :
    finish .none (blinkAt v { s with fg := l, result := r }) = finish .none (blinkAt v s) := by
  unfold blinkAt
  dsimp only
  split <;> split <;> rfl

/-- An operation that ends gives its own result, and does not look at where the foreground stood. -/
theorem afterNow_place {k : AfterNow} (hk : k.ends = true) (v : Nat) (s : State) (l : Fg) (r : Result) :
    afterNow v k { s with fg := l, result := r } = afterNow v k s := by
  cases k with
  | clkNow | dlNew | swNew | cfArm | blSignal | dlElapsed | dlRestart | swElapsed | cfPayload => rfl
  | blProcess => exact congrArg Host.Outcome.next (finish_blinkAt_place v s l r)
  | pumpBlink | waitBase | waitTest => cases hk

/-! ### The place of the foreground -/

/-- The place of the operation `k` that reads the clock, for a place of `CLK.NOW`. -/
def Fg.inside (k : AfterNow) : Fg → Fg
  | .now ph .clkNow => .now ph k
  | l => l

/-- The state in which the foreground is inside the operation `k` where it is inside a `CLK.NOW` in `s`. -/
def State.inside (k : AfterNow) (s : State) : State := { s with fg := s.fg.inside k }

theorem Fg.isIdle_inside (k : AfterNow) (l : Fg) : (l.inside k).isIdle = l.isIdle := by
  unfold Fg.inside
  split <;> rfl

theorem ForegroundBlind.inside {f : State → State} (hf : ForegroundBlind f) (k : AfterNow) (s : State) :
    f (s.inside k) = (f s).inside k := by
  have hsame : (f s).withForeground s = f s := hf.shows rfl
  calc f (s.inside k) = f (s.withForeground (s.inside k)) := rfl
    _ = ((f s).withForeground s).inside k := hf s (s.inside k)
    _ = (f s).inside k := by rw [hsame]

theorem applyMove_inside (k : AfterNow) (m : Move) (s : State) :
    applyMove (s.inside k) m = (applyMove s m).inside k := by
  cases m with
  | event e => exact (envStep_blind e).inside k s
  | irq => exact serve_blind.inside k s
  | reset => rfl

theorem gap_inside (k : AfterNow) (g : List Move) (s : State) : gap g (s.inside k) = (gap g s).inside k := by
  have hmoves : applyMoves g (s.inside k) = (applyMoves g s).inside k := by
    unfold applyMoves
    induction g generalizing s with
    | nil => rfl
    | cons m g ih => rw [List.foldl_cons, List.foldl_cons, applyMove_inside, ih]
  rw [gap, hmoves, serveAll_blind.inside, gap]

/-- R141: what makes a clock reading wait does not depend on what is done with the value. -/
theorem awaits_inside {k : AfterNow} (hk : k.ends = true) (s : State) : (s.inside k).awaits = s.awaits := by
  simp only [State.inside, Fg.inside]
  split
  · next ph hfg =>
    simp only [State.awaits, hfg]
    cases ph with
    | n1 =>
      cases k with
      | waitTest => cases hk
      | _ => rfl
    | n2 | n2rest | n3 | n4 | n5 => rfl
  · rfl

/-! ### The run -/

/-- Inside the `CLK.NOW` that `s` began: the foreground has written nothing but its place. -/
def InRead (s u : State) : Prop :=
  ∃ ph env, u.withForeground { s with fg := .now ph .clkNow, env := env } = u

/-- The operation in progress was abandoned by a reset (R300). -/
def Abandoned (u : State) : Prop := u.fg = .idle ∧ u.result = .none

/-- The `CLK.NOW` that `s` began has returned `v`: the foreground has written nothing but its result. -/
def Returned (s : State) (v : Nat) (t : State) : Prop :=
  ∃ env, t.withForeground { s with fg := .idle, result := .time v, env := env } = t

theorem ForegroundBlind.reads {f : State → State} (hf : ForegroundBlind f) {s u : State}
    (h : InRead s u ∨ Abandoned u) : InRead s (f u) ∨ Abandoned (f u) := by
  obtain ⟨ph, env, h⟩ | ⟨hfg, hresult⟩ := h
  · exact .inl ⟨ph, env, hf.shows h⟩
  · have hsame : (f u).withForeground u = f u := hf.shows rfl
    exact .inr (by rw [← hsame]; exact ⟨hfg, hresult⟩)

theorem gap_reads {g : List Move} {s u : State} (h : InRead s u ∨ Abandoned u) :
    InRead s (gap g u) ∨ Abandoned (gap g u) := by
  have hmoves : InRead s (applyMoves g u) ∨ Abandoned (applyMoves g u) := by
    unfold applyMoves
    induction g generalizing u with
    | nil => exact h
    | cons m g ih =>
      refine ih ?_
      cases m with
      | event e => exact (envStep_blind e).reads h
      | irq => exact serve_blind.reads h
      | reset => exact .inr ⟨rfl, rfl⟩
  exact serveAll_blind.reads hmoves

/-- Before N5 a labelled step moves the place and may draw a free tally (R66, R137). -/
theorem nowStep_cases (ph : NowPhase) (s : State) : (∃ o c2, ph = .n5 o c2) ∨
    ∃ ph' n, ∀ k l, nowStep ph k { s with fg := l } = .next { s with fg := .now ph' k, draws := n } := by
  cases ph with
  | n1 => exact .inr ⟨.n2 s.hw.cnt, s.draws, fun _ _ => rfl⟩
  | n2 c1 =>
    by_cases h : tallyParts s.cfg ≤ 1
    · exact .inr ⟨.n3 c1 s.clk.tally, s.draws, fun _ _ => if_pos h⟩
    · exact .inr ⟨.n2rest c1 s.clk.tally s.clk.writes (tallyParts s.cfg - 1), s.draws, fun _ _ => if_neg h⟩
  | n2rest c1 o writes left =>
    by_cases h : left ≤ 1
    · by_cases hw : s.clk.writes = writes
      · exact .inr ⟨.n3 c1 o, s.draws, fun _ _ => (if_pos h).trans (congrArg _ (if_pos hw))⟩
      · exact .inr ⟨.n3 c1 (Config.freeTally s.draws % 2 ^ s.cfg.wOvf), s.draws + 1,
          fun _ _ => (if_pos h).trans (congrArg _ (if_neg hw))⟩
    · exact .inr ⟨.n2rest c1 o writes (left - 1), s.draws, fun _ _ => if_neg h⟩
  | n3 c1 o => exact .inr ⟨.n4 c1 o s.hw.cnt, s.draws, fun _ _ => rfl⟩
  | n4 c1 o c2 => exact .inr ⟨if sampleAccepted s.cfg c1 c2 then .n5 o c2 else .n1, s.draws, fun _ _ => rfl⟩
  | n5 o c2 => exact .inl ⟨o, c2, rfl⟩

/-- The two things a labelled step of a clock reading can do: go on, or return at N5. -/
theorem fgStep_inside {k : AfterNow} (hk : k.ends = true) {s u : State} (h : InRead s u ∨ Abandoned u) :
    ∃ t, fgStep u = .next t ∧
      ((InRead s t ∨ Abandoned t) ∧ fgStep (u.inside k) = .next (t.inside k) ∨
        t.fg = .idle ∧ ∃ v, Returned s v t ∧ fgStep (u.inside k) = afterNow v k t) := by
  obtain ⟨ph, env, h⟩ | ⟨hfg, hresult⟩ := h
  · obtain ⟨o, c2, rfl⟩ | ⟨ph', n, hstep⟩ := nowStep_cases ph u
    · rw [← h]
      refine ⟨_, rfl, .inr ⟨rfl, _, ⟨env, rfl⟩, ?_⟩⟩
      exact (afterNow_place hk _ _ _ _).trans (afterNow_place hk _ _ _ _).symm
    · rw [← h] at hstep ⊢
      exact ⟨_, hstep .clkNow (.now ph .clkNow), .inl ⟨.inl ⟨ph', env, rfl⟩, hstep k (.now ph k)⟩⟩
  · have hidle : fgStep u = .next u := by simp [fgStep, hfg]
    have hsame : u.inside k = u := by rw [State.inside, hfg, Fg.inside, ← hfg]; simp
    exact ⟨u, hidle, .inl ⟨.inr ⟨hfg, hresult⟩, by rw [hsame, hidle]⟩⟩

/-- An answer in which the operation has ended is the answer of the run. -/
theorem runFg_of_idle {n : Nat} {s : State} {a : Answer} (h : fgStep s = a) (ha : Ensures (fun t => t.fg = .idle) a) :
    runFg n s = a := by
  subst h
  cases n with
  | zero => rfl
  | succ n =>
    unfold runFg
    split
    · next t e =>
      rw [e] at ha ⊢
      have hidle : t.fg.isIdle = true := congrArg Fg.isIdle ha
      simp [hidle]
    · next e => exact e.symm
    · next e => exact e.symm

/-- A run of `CLK.NOW` goes on to a next state, and the run of `k` beside it goes on to the same one with its own place,
or does with that state what `k` does with the value. -/
theorem runFg_inside {k : AfterNow} (hk : k.ends = true) (n : Nat) {s u : State} (h : InRead s u ∨ Abandoned u) :
    ∃ t, runFg n u = .next t ∧
      ((InRead s t ∨ Abandoned t) ∧ runFg n (u.inside k) = .next (t.inside k) ∨
        ∃ v, Returned s v t ∧ runFg n (u.inside k) = afterNow v k t) := by
  induction n generalizing u with
  | zero =>
    obtain ⟨t, e, h | ⟨-, h⟩⟩ := fgStep_inside hk h
    · exact ⟨t, e, .inl h⟩
    · exact ⟨t, e, .inr h⟩
  | succ n ih =>
    obtain ⟨t, e, ⟨ht, ek⟩ | ⟨hidle, v, ht, ek⟩⟩ := fgStep_inside hk h
    · have hstop : (t.inside k).fg.isIdle = t.fg.isIdle := t.fg.isIdle_inside k
      have henv : (t.inside k).env = t.env := rfl
      simp only [runFg, e, ek, hstop, henv]
      cases hfg : t.fg.isIdle with
      | true => exact ⟨t, rfl, .inl ⟨ht, rfl⟩⟩
      | false =>
        cases t.env with
        | nil =>
          have hserved : InRead s (serveAll t) ∨ Abandoned (serveAll t) := serveAll_blind.reads ht
          simp only [serveAll_blind.inside, awaits_inside hk]
          cases (serveAll t).awaits with
          | true => exact ⟨serveAll t, rfl, .inl ⟨hserved, rfl⟩⟩
          | false => exact ih hserved
        | cons g gs =>
          have hnext : InRead s { t with env := gs } ∨ Abandoned { t with env := gs } :=
            ht.imp_left fun ⟨ph, env, hph⟩ => ⟨ph, gs, congrArg (fun w : State => { w with env := gs }) hph⟩
          have hgap : gap g { t.inside k with env := gs } = (gap g { t with env := gs }).inside k :=
            gap_inside k g { t with env := gs }
          simp only [hgap]
          exact ih (gap_reads hnext)
    · have hends := afterNow_ends hk v t
      exact ⟨t, runFg_of_idle e hidle, .inr ⟨v, ht, runFg_of_idle ek hends⟩⟩

/-- An operation `k` that reads the clock from a state goes on beside the `CLK.NOW` issued there, or does with the state
in which that returns what `k` does with the value. -/
theorem startNow_inside {k : AfterNow} (hk : k.ends = true) (s : State) :
    ∃ t, startNow .clkNow s = .next t ∧
      ((InRead s t ∨ Abandoned t) ∧ startNow k s = .next (t.inside k) ∨
        ∃ v, Returned s v t ∧ startNow k s = afterNow v k t) :=
  runFg_inside hk _ (.inl ⟨.n1, s.env, rfl⟩)

/-! ### A clock reading that returns -/

theorem ReadsClock.ready {s t : State} {v : Nat} (h : ReadsClock s v t) : Ready s := by
  obtain ⟨hhandler, hfg, -⟩ := inForeground_next h.1
  exact ⟨hhandler, hfg⟩

theorem ReadsClock.runs {s t : State} {v : Nat} (h : ReadsClock s v t) {k : AfterNow} (hk : k.ends = true) :
    Returned s v t ∧ startNow k s = afterNow v k t := by
  have hready := h.ready
  obtain ⟨e, hidle, hresult⟩ := h
  rw [exec_clkNow hready] at e
  obtain ⟨t', e', hrun⟩ := startNow_inside hk s
  obtain rfl : t' = t := by simpa [e] using e'.symm
  obtain ⟨⟨ph, env, hread⟩ | ⟨-, hnone⟩, -⟩ | ⟨v', hreturned, ek⟩ := hrun
  · rw [← hread] at hidle
    cases hidle
  · rw [hnone] at hresult
    cases hresult
  · obtain ⟨env, hshow⟩ := hreturned
    have hv : Result.time v' = .time v := by rw [← hresult, ← hshow]; rfl
    cases hv
    exact ⟨⟨env, hshow⟩, ek⟩

/-- An operation that reads the clock once does its part with the value and the state of the `CLK.NOW`. -/
theorem ReadsClock.startNow {s t : State} {v : Nat} (h : ReadsClock s v t) {k : AfterNow} (hk : k.ends = true) :
    Machine.startNow k s = afterNow v k t := (h.runs hk).2

/-- R137: a `CLK.NOW` writes no component of the foreground. -/
theorem ReadsClock.returned {s t : State} {v : Nat} (h : ReadsClock s v t) : Returned s v t :=
  (h.runs (k := .clkNow) rfl).1

theorem ReadsClock.dl {s t : State} {v : Nat} (h : ReadsClock s v t) : t.dl = s.dl := by
  obtain ⟨env, hshow⟩ := h.returned
  rw [← hshow]
  rfl

theorem ReadsClock.sw {s t : State} {v : Nat} (h : ReadsClock s v t) : t.sw = s.sw := by
  obtain ⟨env, hshow⟩ := h.returned
  rw [← hshow]
  rfl

theorem ReadsClock.cfg {s t : State} {v : Nat} (h : ReadsClock s v t) : t.cfg = s.cfg :=
  ((ensures_iff _ _).1 (exec_grows .clkNow s) t h.1).cfg

/-- The schedule of one reading makes a `CLK.NOW` return (R137, R138). -/
theorem Reading.readsClock {n m : Nat} {rest : List (List Move)} {s : State} (h : Reading n m rest s) :
    ReadsClock s (wideTime s.cfg s.clk.tally (s.hw.cnt + (n + m)))
      (finish (.time (wideTime s.cfg s.clk.tally (s.hw.cnt + (n + m)))) (s.later (n + m) rest)) :=
  ⟨(clkNow n m rest s).1 h, rfl, rfl⟩

end Sys2Proof.Machine
end

section
/-! SUPPORT. Deadlines and stopwatches (R150 to R157, U3): each operation's part with the value of its clock reading,
and the arithmetic of the elapsed test. -/

namespace Sys2Proof.Machine

/-! ### The elapsed test -/

/-- R8: what was added modulo `2^n` is the difference. -/
theorem subMod_addMod (n a k : Nat) : subMod n (addMod n a k) a = k % 2 ^ n := by
  have hlt : a % 2 ^ n < 2 ^ n := Nat.mod_lt _ (Nat.two_pow_pos n)
  have hsplit : 2 ^ n * (a / 2 ^ n) + a % 2 ^ n = a := Nat.div_add_mod a (2 ^ n)
  have hsum : a + k + (2 ^ n - a % 2 ^ n) = k + 2 ^ n * (a / 2 ^ n + 1) := by
    rw [Nat.mul_succ]
    omega
  rw [subMod, addMod, Nat.mod_add_mod, hsum, Nat.add_mul_mod_self_left]

theorem subMod_lt (n a b : Nat) : subMod n a b < 2 ^ n := Nat.mod_lt _ (Nat.two_pow_pos n)

/-- R150: `k` ticks after its base a deadline answers by `k` modulo `2^W_TIME`. -/
theorem elapsed_addMod (P : Params) (base duration k : Nat) :
    elapsed P (addMod P.wTime base k) base duration = decide (duration < k % 2 ^ P.wTime) := by
  rw [elapsed, subMod_addMod]

/-- R151: a duration of 0 elapses one tick after the base. -/
theorem elapsed_zero {P : Params} (h : P.valid = true) (base : Nat) :
    elapsed P (addMod P.wTime base 1) base 0 = true := by
  have hovf : 1 ≤ P.wOvf := by
    simp only [Params.valid, Bool.and_eq_true, decide_eq_true_eq] at h
    obtain ⟨⟨⟨⟨⟨⟨⟨⟨⟨-, hovf⟩, -⟩, -⟩, -⟩, -⟩, -⟩, -⟩, -⟩, -⟩ := h
    exact hovf
  have hperiod : 1 < 2 ^ P.wTime := Nat.one_lt_two_pow (by simp only [Params.wTime]; omega)
  rw [elapsed_addMod, Nat.mod_eq_of_lt hperiod]
  rfl

/-- R151: the longest duration never elapses. -/
theorem elapsed_max (P : Params) (now base : Nat) : elapsed P now base (2 ^ P.wTime - 1) = false := by
  have hlt := subMod_lt P.wTime now base
  exact decide_eq_false (by omega)

/-- Settles O29: the difference of the clock and the base is the number of ticks, modulo the period. -/
theorem elapsedWindow : Obligations.ElapsedWindow := by
  unfold Obligations.ElapsedWindow
  intro P base duration k _
  refine ⟨elapsed_addMod P base duration k, fun hk => ?_⟩
  rw [elapsed_addMod, Nat.mod_eq_of_lt hk, decide_eq_true_iff]

/-! ### The operations -/

/-- R281: a foreground operation is refused inside a handler. -/
theorem inForeground_handler {s : State} (a : Answer) (h : s.cpu.handler ≠ none) :
    inForeground s a = .refused .wrongContext := by
  have hisr : s.cpu.inIsr = true := Option.isSome_iff_ne_none.2 h
  simp [inForeground, hisr]

section
variable {s : State} (h : Ready s)
include h

theorem exec_dlNew {d : Nat} (hd : d < s.dl.length) (duration : Nat) :
    exec (.dlNew d duration) s = startNow (.dlNew d duration) s := by
  simp [exec, execDlNew, inForeground_idle _ h.1 h.2, hd]

theorem exec_swNew {w : Nat} (hw : w < s.sw.length) : exec (.swNew w) s = startNow (.swNew w) s := by
  simp [exec, execSwNew, inForeground_idle _ h.1 h.2, hw]

section
variable {d : Nat} {D : Deadline} (hd : s.dl[d]? = some D)
include hd

theorem exec_dlElapsed : exec (.dlElapsed d) s =
    if D.made then if D.cancelled then .next (finish (.bool false) s) else startNow (.dlElapsed d) s
    else .fault .unconstructedDeadline := by
  simp [exec, execDlElapsed, inForeground_idle _ h.1 h.2, hd]

theorem exec_dlRestart : exec (.dlRestart d) s =
    if D.made then startNow (.dlRestart d) s else .fault .unconstructedDeadline := by
  simp [exec, execDlRestart, inForeground_idle _ h.1 h.2, hd]

theorem exec_dlCancel : exec (.dlCancel d) s =
    .next (finish .none { s with dl := s.dl.set d { D with cancelled := true } }) := by
  simp [exec, execDlCancel, inForeground_idle _ h.1 h.2, hd]

end

theorem exec_swElapsedTime {w : Nat} {W : Stopwatch} (hw : s.sw[w]? = some W) : exec (.swElapsedTime w) s =
    if W.made then startNow (.swElapsed w) s else .fault .unconstructedStopwatch := by
  simp [exec, execSwElapsedTime, inForeground_idle _ h.1 h.2, hw]

end

section
variable {s t : State} {v : Nat} (h : ReadsClock s v t)
include h

/-- R151: all three fields are written. -/
theorem ReadsClock.exec_dlNew {d : Nat} (hd : d < s.dl.length) (duration : Nat) :
    exec (.dlNew d duration) s = .next (finish .none
      { t with dl := s.dl.set d { base := v, duration := duration, cancelled := false, made := true } }) := by
  rw [Machine.exec_dlNew h.ready hd, h.startNow rfl, ← h.dl]
  rfl

/-- R155: the base is the value read. -/
theorem ReadsClock.exec_swNew {w : Nat} (hw : w < s.sw.length) :
    exec (.swNew w) s = .next (finish .none { t with sw := s.sw.set w { base := v, made := true } }) := by
  rw [Machine.exec_swNew h.ready hw, h.startNow rfl, ← h.sw]
  rfl

section
variable {d : Nat} {D : Deadline} (hd : s.dl[d]? = some D) (hm : D.made = true)
include hd hm

/-- R152, for a deadline that is armed. -/
theorem ReadsClock.exec_dlElapsed (hc : D.cancelled = false) :
    exec (.dlElapsed d) s = .next (finish (.bool (decide (D.duration < subMod s.cfg.wTime v D.base))) t) := by
  rw [Machine.exec_dlElapsed h.ready hd, if_pos hm, if_neg (by simp [hc]), h.startNow rfl]
  simp [afterNow, h.dl, hd, elapsed, h.cfg]

/-- R153: the base is read again, the duration kept. -/
theorem ReadsClock.exec_dlRestart : exec (.dlRestart d) s = .next (finish .none
    { t with dl := s.dl.set d { D with base := v, cancelled := false } }) := by
  rw [Machine.exec_dlRestart h.ready hd, if_pos hm, h.startNow rfl]
  simp [afterNow, h.dl, hd]

end

/-- R156: the difference from the base. -/
theorem ReadsClock.exec_swElapsedTime {w : Nat} {W : Stopwatch} (hw : s.sw[w]? = some W) (hm : W.made = true) :
    exec (.swElapsedTime w) s = .next (finish (.time (subMod s.cfg.wTime v W.base)) t) := by
  rw [Machine.exec_swElapsedTime h.ready hw, if_pos hm, h.startNow rfl]
  simp [afterNow, h.sw, hw, h.cfg]

end

/-- Settles O23: its part with the value of the clock reading; the schedule of one reading is a case of it. -/
theorem dlNew : Obligations.DlNew := by
  unfold Obligations.DlNew
  intro d duration s
  refine ⟨rfl, fun h => inForeground_handler _ h, fun v t hd h => h.exec_dlNew hd duration, fun n m rest hd h => ?_,
    fun base hvalid => ⟨elapsed_zero hvalid base, fun now => elapsed_max s.cfg now base⟩⟩
  exact h.readsClock.exec_dlNew hd duration

/-- Settles O24: the three cases are tested in the order of R152. -/
theorem dlElapsed : Obligations.DlElapsed := by
  unfold Obligations.DlElapsed
  intro d D s hd
  refine ⟨fun h hm => ?_, fun h hm hc => ?_, fun v t hm hc h => h.exec_dlElapsed hd hm hc, fun n m rest hm hc h => ?_⟩
  · rw [exec_dlElapsed h hd, if_neg (by simp [hm])]
  · rw [exec_dlElapsed h hd, if_pos hm, if_pos hc]
  · exact h.readsClock.exec_dlElapsed hd hm hc

/-- Settles O25: its part with the value of the clock reading, on a deadline that has been constructed. -/
theorem dlRestart : Obligations.DlRestart := by
  unfold Obligations.DlRestart
  intro d D s hd
  refine ⟨rfl, fun h => inForeground_handler _ h, fun h hm => ?_, fun v t hm h => h.exec_dlRestart hd hm,
    fun n m rest hm h => ?_⟩
  · rw [exec_dlRestart h hd, if_neg (by simp [hm])]
  · exact h.readsClock.exec_dlRestart hd hm

/-- Settles O27: its part with the value of the clock reading. -/
theorem swNew : Obligations.SwNew := by
  unfold Obligations.SwNew
  intro w s
  exact ⟨rfl, fun h => inForeground_handler _ h, fun v t hw h => h.exec_swNew hw,
    fun n m rest hw h => h.readsClock.exec_swNew hw⟩

/-- Settles O28: its part with the value of the clock reading, on a stopwatch that has been constructed. -/
theorem swElapsedTime : Obligations.SwElapsedTime := by
  unfold Obligations.SwElapsedTime
  intro w W s hw
  refine ⟨fun h hm => ?_, fun v t hm h => h.exec_swElapsedTime hw hm, fun n m rest hm h => ?_⟩
  · rw [exec_swElapsedTime h hw, if_neg (by simp [hm])]
  · exact h.readsClock.exec_swElapsedTime hw hm

/-! ### A cancelled deadline -/

/-- Without a reset, a run that reads the clock leaves the deadlines as they are up to what is done with the value. -/
theorem startNow_deadlines {k : AfterNow} (hk : k.ends = true) {s t : State} (hr : NoReset s.env)
    (e : startNow k s = .next t) : t.dl = s.dl ∨ ∃ u v, u.dl = s.dl ∧ afterNow v k u = .next t := by
  obtain ⟨u, eu, hrun⟩ := startNow_inside hk s
  have hdl : u.dl = s.dl :=
    ((ensures_iff _ _).1 (startAt_spares (c := .deadlines) (l := .now .n1 .clkNow) hr rfl) u eu).deadlines rfl
  obtain ⟨-, ek⟩ | ⟨v, -, ek⟩ := hrun
  · rw [ek] at e
    cases e
    exact .inl hdl
  · exact .inr ⟨u, v, hdl, ek ▸ e⟩

/-- What is done with the value leaves deadline `d` alone: it is an operation of another deadline. -/
theorem startNow_otherDeadline {k : AfterNow} {d d' : Nat} {s t : State} (hne : d' ≠ d)
    (hk : (∃ duration, k = .dlNew d' duration) ∨ k = .dlRestart d') (hr : NoReset s.env) (e : startNow k s = .next t) :
    t.dl[d]? = s.dl[d]? := by
  have hends : k.ends = true := by obtain ⟨_, rfl⟩ | rfl := hk <;> rfl
  obtain hsame | ⟨u, v, hsame, e⟩ := startNow_deadlines hends hr e
  · rw [hsame]
  · rw [← hsame]
    obtain ⟨duration, rfl⟩ | rfl := hk
    · cases e
      exact List.getElem?_set_ne hne
    · simp only [afterNow] at e
      split at e
      · cases e
        exact List.getElem?_set_ne hne
      · cases e

/-- R154: only `DL.NEW` and `DL.RESTART` of a deadline, or a reset, arm it. -/
theorem exec_keeps_cancelled {i : Instr} {d : Nat} {D : Deadline} {s t : State} (hd : s.dl[d]? = some D)
    (hc : D.cancelled = true) (hi : rearms d i = false) (hr : NoReset s.env) (e : exec i s = .next t) :
    ∃ D', t.dl[d]? = some D' ∧ D'.cancelled = true := by
  by_cases hw : writesDeadlines i = true
  · cases i with
    | dlNew d' duration =>
      obtain ⟨-, -, e⟩ := inForeground_next e
      split at e
      · exact ⟨D, (startNow_otherDeadline (by simpa [rearms] using hi) (.inl ⟨duration, rfl⟩) hr e).trans hd, hc⟩
      · cases e
    | dlRestart d' =>
      obtain ⟨-, -, e⟩ := inForeground_next e
      split at e
      · split at e
        · exact ⟨D, (startNow_otherDeadline (by simpa [rearms] using hi) (.inr rfl) hr e).trans hd, hc⟩
        · cases e
      · cases e
    | dlCancel d' =>
      obtain ⟨-, -, e⟩ := inForeground_next e
      split at e
      · next D' hd' =>
        cases e
        by_cases heq : d' = d
        · subst heq
          exact ⟨_, List.getElem?_set_self (List.getElem?_eq_some_iff.1 hd').1, rfl⟩
        · exact ⟨D, (List.getElem?_set_ne heq).trans hd, hc⟩
      · cases e
    | envReset => cases hi
    | _ => cases hw
  · obtain ⟨-, hdl, -⟩ := owners i s t hr e
    exact ⟨D, by rw [hdl (Bool.eq_false_iff.2 hw), hd], hc⟩

/-- R154: a cancelled deadline is not changed by cancelling it again. -/
theorem set_cancelled {dl : List Deadline} {d : Nat} {D : Deadline} (hd : dl[d]? = some D) (hc : D.cancelled = true) :
    dl.set d { D with cancelled := true } = dl := by
  obtain ⟨hlt, rfl⟩ := List.getElem?_eq_some_iff.1 hd
  have hsame : { dl[d] with cancelled := true } = dl[d] := by rw [← hc]
  rw [hsame, List.set_getElem_self]

/-- Settles O26: the bit is written, written again to no effect, and answers every query until it is cleared. -/
theorem dlCancel : Obligations.DlCancel := by
  unfold Obligations.DlCancel
  intro d D s hd
  refine ⟨rfl, fun h => exec_dlCancel h hd, fun h hc => ?_, fun h hc hm => ?_,
    fun i t hc hi hr e => exec_keeps_cancelled hd hc hi hr e⟩
  · rw [exec_dlCancel h hd, set_cancelled hd hc]
  · rw [exec_dlElapsed h hd, if_pos hm, if_pos hc]

end Sys2Proof.Machine
end

section
/-! SUPPORT. The boot trigger filter (R166 to R168): its two outcomes by the progress after the byte, and a trigger
sequence seen from any place inside it. -/

namespace Sys2Proof.Machine

/-- The match progress after a byte, before a full match starts again (R166). -/
def nextProgress (P : Params) (k : Nat) (b : Byte) : Nat :=
  if P.bootSeq[k]? = some b then k + 1 else progressAfterMismatch P b

/-- R166: a full match signals and starts again. -/
theorem filterByte_full {b : Byte} {s : State} (h : nextProgress s.cfg s.sp.progress b = s.cfg.bootSeq.length) :
    filterByte b s = { s with sp := { s.sp with progress := 0 }, bootRequest := s.bootRequest + 1 } :=
  if_pos h

/-- R166: short of a full match only the progress is written. -/
theorem filterByte_short {b : Byte} {s : State} (h : nextProgress s.cfg s.sp.progress b ≠ s.cfg.bootSeq.length) :
    filterByte b s = { s with sp := { s.sp with progress := nextProgress s.cfg s.sp.progress b } } :=
  if_neg h

/-- R167: the matcher that does not retry falls back to the start on a mismatch. -/
theorem nextProgress_noRetry {P : Params} (h : P.matcherRetries = false) (k : Nat) (b : Byte) :
    nextProgress P k b = if P.bootSeq[k]? = some b then k + 1 else 0 := by
  simp [nextProgress, progressAfterMismatch, h]

/-- R167: the first byte of what is left of the sequence is the expected one, under either matcher. -/
theorem nextProgress_expected {P : Params} {k : Nat} {b : Byte} {bs : List Byte} (h : P.bootSeq.drop k = b :: bs) :
    nextProgress P k b = k + 1 := by
  have hexpected : P.bootSeq[k]? = some b := by rw [← List.head?_drop, h, List.head?_cons]
  exact if_pos hexpected

/-- R166, R167: what is left of the sequence, seen where the match stands, signals once and ends at the start. -/
theorem foldl_filterByte {bs : List Byte} (hne : bs ≠ []) {s : State} (h : s.cfg.bootSeq.drop s.sp.progress = bs) :
    bs.foldl (fun u b => filterByte b u) s =
      { s with sp := { s.sp with progress := 0 }, bootRequest := s.bootRequest + 1 } := by
  induction bs generalizing s with
  | nil => exact absurd rfl hne
  | cons b bs ih =>
    have hnext := nextProgress_expected h
    have hlength : s.cfg.bootSeq.length - s.sp.progress = bs.length + 1 := by
      rw [← List.length_drop, h, List.length_cons]
    rw [List.foldl_cons]
    by_cases hbs : bs = []
    · subst hbs
      rw [List.length_nil] at hlength
      exact filterByte_full (by omega)
    · have hrest : s.cfg.bootSeq.drop (s.sp.progress + 1) = bs := by rw [← List.tail_drop, h, List.tail_cons]
      have hpos := List.length_pos_iff.2 hbs
      rw [filterByte_short (by omega), hnext, ih hbs hrest]

/-- Settles O31: the whole sequence is what is left of it at the start. -/
theorem bootSequence : Obligations.BootSequence := by
  unfold Obligations.BootSequence
  intro s hstart hne
  rw [foldl_filterByte hne (by rw [hstart, List.drop_zero]), ← hstart]

/-- R281: `BTF.CHECK` where it may be issued shows the filter the byte and returns it (R168). -/
theorem exec_btfCheck {s : State} (h : RingReady [.rxc] s) (b : Byte) :
    exec (.btfCheck b) s = .next (deliver (.byte b) (filterByte b s)) :=
  inRingContext_ready _ h

/-- Settles O30: the two outcomes of the filter, with the progress of the matcher that does not retry. -/
theorem btfCheck : Obligations.BtfCheck := by
  unfold Obligations.BtfCheck
  intro b s h hretry _ p
  have hnext : nextProgress s.cfg s.sp.progress b = p := nextProgress_noRetry hretry _ b
  refine ⟨rfl, fun hfull => ?_, fun hshort => ?_⟩
  · rw [exec_btfCheck h, filterByte_full (hnext.trans hfull)]
  · rw [exec_btfCheck h, filterByte_short (hnext ▸ hshort), hnext]

end Sys2Proof.Machine
end

section
/-! SUPPORT. Transmit ordering (R186, R187, R192): which moves of the block leave the transmitted bytes as they are, and
how `SP.WRITE` adds its byte after them. -/

namespace Sys2Proof.Machine

/-! ### What keeps the transmitted bytes -/

/-- The bytes on the line and those still in the ring, in order (R192). -/
def State.sent (s : State) : List Byte := s.lineOut ++ s.sp.tx.q s.cfg.nTx

theorem State.transmitted_eq (s : State) : s.transmitted = s.sent ++ s.toSend := rfl

theorem State.sent_eq_transmitted {s : State} (h : s.fg = .idle) : s.sent = s.transmitted := by
  simp [State.transmitted_eq, State.toSend, h]

/-- From `s` to `t` no byte is added to the line and the ring together, dropped or reordered, and the byte that an
`SP.WRITE` has still to push is the same; no reset is newly scheduled. -/
structure Transmits (s t : State) : Prop where
  noReset : NoReset s.env → NoReset t.env := by exact id
  toSend : t.toSend = s.toSend := by rfl
  sent : RingOk s.cfg.nTx s.sp.tx → RingOk t.cfg.nTx t.sp.tx ∧ t.sent = s.sent := by exact fun h => ⟨h, rfl⟩

namespace Transmits

theorem refl (s : State) : Transmits s s := {}

theorem trans {s t u : State} (h : Transmits s t) (k : Transmits t u) : Transmits s u where
  noReset hs := k.noReset (h.noReset hs)
  toSend := k.toSend.trans h.toSend
  sent hs := by
    obtain ⟨ht, hst⟩ := h.sent hs
    obtain ⟨hu, htu⟩ := k.sent ht
    exact ⟨hu, htu.trans hst⟩

theorem transmitted {s t : State} (h : Transmits s t) (hs : RingOk s.cfg.nTx s.sp.tx) : t.transmitted = s.transmitted := by
  rw [State.transmitted_eq, State.transmitted_eq, (h.sent hs).2, h.toSend]

end Transmits

/-- An operation that is no write ends with nothing to push (R94). -/
theorem finish_transmits {s : State} (hp : s.toSend = []) (r : Result) : Transmits s (finish r s) := { toSend := hp.symm }

/-! ### Beside the foreground -/

theorem filterByte_transmits (b : Byte) (s : State) : Transmits s (filterByte b s) := by
  obtain ⟨p, -, ⟨-, e⟩ | ⟨-, e⟩⟩ := filterByte_cases b s <;> rw [e] <;> exact {}

theorem intrRx_transmits (f : Frame) (s : State) : Transmits s (intrRx f s) := by
  have hframe : Transmits s (takeFrame f s) := by
    obtain ⟨-, e⟩ | ⟨-, e⟩ := takeFrame_cases f s <;> rw [e] <;> exact {}
  have hbuffer : Transmits (takeFrame f s) (bufferByte f.data (takeFrame f s)) := by
    refine (filterByte_transmits f.data _).trans ?_
    obtain ⟨-, e⟩ | ⟨-, e⟩ := bufferByte_cases f.data (takeFrame f s) <;> rw [e] <;> exact {}
  refine hframe.trans ?_
  obtain ⟨-, e⟩ | ⟨-, e⟩ := intrRx_cases f s <;> rw [e]
  · exact {}
  · exact hbuffer.trans {}

theorem processRx_transmits (s : State) : Transmits s (processRx s) := by
  obtain ⟨-, e⟩ | ⟨f, -, e⟩ := processRx_cases s <;> rw [e]
  · exact .refl s
  · exact intrRx_transmits f s

/-- R186: the byte that leaves the ring first goes to the end of the line. -/
theorem drainOne_transmits (s : State) : Transmits s (drainOne s) := by
  obtain ⟨e, -⟩ | ⟨-, hc, e⟩ := drainOne_cases s <;> rw [e]
  · exact .refl s
  · refine { sent := fun h => ⟨h.pop hc, ?_⟩ }
    simp [State.sent, h.q_pop hc]

theorem intrTx_transmits (s : State) : Transmits s (intrTx s) := by
  refine (drainOne_transmits s).trans ?_
  obtain ⟨-, e⟩ | ⟨-, e⟩ := intrTx_cases s <;> rw [e] <;> exact {}

theorem handlerBody_transmits (x : Handler) (s : State) : Transmits s (handlerBody x s) := by
  cases x with
  | tov => exact {}
  | rxc => exact processRx_transmits s
  | dre => exact intrTx_transmits s

theorem runHandler_transmits (x : Handler) (s : State) : Transmits s (runHandler x s) := by
  have hentry : Transmits s (returnIrq (takeIrq x s)) := {}
  rw [runHandler_eq]
  exact hentry.trans (handlerBody_transmits x _)

theorem envEvent_transmits (e : EnvEvent) (s : State) : Transmits s (e.apply s) := by
  cases e <;> exact {}

theorem applyMoves_transmits {g : List Move} (hr : Move.reset ∉ g) (s : State) : Transmits s (applyMoves g s) :=
  applyMoves_keeps (P := Transmits s) (fun e u _ h => h.trans (envEvent_transmits e u))
    (fun x u _ h => h.trans (runHandler_transmits x u)) (fun hm => absurd hm hr) (.refl s)

theorem tickMany_transmits (n : Nat) (s : State) : Transmits s (tickMany n s) :=
  tickMany_keeps (P := Transmits s) (fun u h => h.trans (envEvent_transmits .tick u))
    (fun x u _ h => h.trans (runHandler_transmits x u)) n (.refl s)

/-! ### Labelled steps outside a write -/

theorem blinkAt_transmits (t : Nat) (s : State) : Transmits s (blinkAt t s) := by
  obtain e | ⟨-, e⟩ | ⟨-, e⟩ := blinkAt_cases t s <;> rw [e] <;> exact {}

theorem adcPoll_transmits (s : State) : Transmits s (adcPoll s).1 := by
  obtain ⟨-, e⟩ | ⟨-, e⟩ := adcPoll_cases s <;> rw [e] <;> exact {}

theorem startConversion_transmits (s : State) : Ensures (Transmits s) (startConversion s) :=
  (ensures_iff _ _).2 fun t e => by
    obtain ⟨-, c, -, rfl⟩ := startConversion_next e
    exact {}

theorem startNextConversion_transmits (s : State) : Ensures (Transmits s) (startNextConversion s) :=
  (ensures_iff _ _).2 fun t e => by
    obtain ⟨-, c, -, rfl⟩ := startNextConversion_next e
    exact {}

/-- A step that keeps the bytes, then the rest of a `PUMP` (R250). -/
theorem pumpGoOn_transmits {s u : State} (hp : s.toSend = []) (h : Transmits s u) (todo : List PumpPart) (k : AfterPump) :
    Transmits s (pumpGoOn todo k u) := by
  have hu : u.toSend = [] := h.toSend.trans hp
  refine h.trans ?_
  cases todo with
  | nil =>
    cases k with
    | ret => exact finish_transmits hu _
    | wait base duration => exact { toSend := hu.symm }
  | cons p ps => exact { toSend := hu.symm }

section
variable {s : State} (hp : s.toSend = [])
include hp

theorem afterNow_transmits (t : Nat) (k : AfterNow) : Ensures (Transmits s) (afterNow t k s) := by
  have hblink := blinkAt_transmits t s
  cases k with
  | clkNow | dlNew | swNew | cfArm | blSignal | waitBase => exact { toSend := hp.symm }
  | dlElapsed d | dlRestart d =>
    simp only [afterNow]
    cases s.dl[d]? with
    | none => trivial
    | some D => exact { toSend := hp.symm }
  | swElapsed w =>
    simp only [afterNow]
    cases s.sw[w]? with
    | none => trivial
    | some W => exact { toSend := hp.symm }
  | cfPayload b =>
    simp only [afterNow, takePayload]
    split <;> exact { toSend := hp.symm }
  | blProcess => exact hblink.trans (finish_transmits (hblink.toSend.trans hp) _)
  | pumpBlink todo k => exact pumpGoOn_transmits hp hblink todo k
  | waitTest base duration =>
    simp only [afterNow]
    split
    · exact finish_transmits hp _
    · exact pumpGoOn_transmits hp (.refl s) _ _

theorem nowStep_transmits (ph : NowPhase) (k : AfterNow) : Ensures (Transmits s) (nowStep ph k s) := by
  cases ph with
  | n1 | n3 | n4 => exact { toSend := hp.symm }
  | n2 c1 => simp only [nowStep]; split <;> exact { toSend := hp.symm }
  | n2rest c1 o writes left =>
    simp only [nowStep, readTally]
    split
    · split <;> exact { toSend := hp.symm }
    · exact { toSend := hp.symm }
  | n5 o c2 => exact afterNow_transmits hp _ k

theorem pumpStep_transmits (p : PumpPart) (todo : List PumpPart) (k : AfterPump) :
    Ensures (Transmits s) (pumpStep p todo k s) := by
  cases p with
  | rx => exact pumpGoOn_transmits hp (processRx_transmits s) todo k
  | tx => exact pumpGoOn_transmits hp (drainOne_transmits s) todo k
  | adcPoll =>
    have h := adcPoll_transmits s
    simp only [pumpStep]
    split <;> next s1 e => exact pumpGoOn_transmits hp (by simpa [e] using h) _ k
  | adcNext =>
    have h := startNextConversion_transmits s
    simp only [pumpStep]
    split
    · next s1 e => exact pumpGoOn_transmits hp ((ensures_iff _ _).1 h s1 e) todo k
    · trivial
    · trivial
  | blink =>
    simp only [pumpStep]
    split
    · exact pumpGoOn_transmits hp (.refl s) todo k
    · exact { toSend := hp.symm }

theorem readByte_transmits : Ensures (Transmits s) (readByte s) := by
  unfold readByte
  split
  · exact { toSend := hp.symm }
  · trivial

/-- R10, R192: a labelled step of an operation that has no byte to push keeps the transmitted bytes. -/
theorem fgStep_transmits : Ensures (Transmits s) (fgStep s) := by
  unfold fgStep
  cases hf : s.fg <;> dsimp only
  case idle => exact Transmits.refl s
  case now ph k => exact nowStep_transmits hp ph k
  case rd1 => cases s.sp.rx.isEmpty <;> exact { toSend := hp.symm }
  case rd2a | rd2c | w5 | blArm => exact { toSend := hp.symm }
  case rd2b => exact (processRx_transmits s).trans { toSend := ((processRx_transmits s).toSend.trans hp).symm }
  case rd3 => exact readByte_transmits hp
  case w1a | w1b | w2 | w3 | w4 => simp [State.toSend, hf] at hp
  case f1 => split <;> exact { toSend := hp.symm }
  case f2 => exact (drainOne_transmits s).trans { toSend := ((drainOne_transmits s).toSend.trans hp).symm }
  case pump todo k =>
    cases todo with
    | nil => exact pumpGoOn_transmits hp (.refl s) [] k
    | cons p todo => exact pumpStep_transmits hp p todo k

/-- A run of an operation that has no byte to push, where no reset is scheduled (R10, R68). -/
theorem continueFg_transmits (hr : NoReset s.env) : Ensures (Transmits s) (continueFg s) :=
  (ensures_iff _ _).2 fun _ e =>
    runFg_keeps (P := Transmits s)
      (fun u t hu h => h.trans ((ensures_iff _ _).1 (fgStep_transmits (h.toSend.trans hp)) t hu))
      (fun _ _ _ hg h => h.trans { noReset := fun hn g' hm => hn g' (hg ▸ List.mem_cons_of_mem _ hm) })
      (fun x u _ h => h.trans (envEvent_transmits x u)) (fun x u _ h => h.trans (runHandler_transmits x u))
      (fun _ g _ hg hm h => absurd hm (h.noReset hr g (hg ▸ List.mem_cons_self))) _ (.refl s) e

theorem startAt_transmits {l : Fg} (hr : NoReset s.env) (hl : { s with fg := l }.toSend = []) :
    Ensures (Transmits s) (startAt l s) :=
  (ensures_iff _ _).2 fun t e =>
    have hstart : Transmits s { s with fg := l } := { toSend := hl.trans hp.symm }
    hstart.trans ((ensures_iff _ _).1 (continueFg_transmits (s := { s with fg := l }) hl hr) t e)

end

/-! ### Labelled steps of any operation -/

/-- R10, R182, R192: a labelled step keeps the transmitted bytes, where the byte to push stands last: W1b finds the ring
empty, and W4 finds a free slot. -/
theorem fgStep_transmitted {s t : State} (h : FgRuns s) (e : fgStep s = .next t) :
    (NoReset s.env → NoReset t.env) ∧ t.transmitted = s.transmitted := by
  have hring := h.inv.tx
  have hplace := h.inv.place
  unfold FgOk at hplace
  by_cases hp : s.toSend = []
  · have hkeep := (ensures_iff _ _).1 (fgStep_transmits hp) t e
    exact ⟨hkeep.noReset, hkeep.transmitted hring⟩
  · unfold fgStep at e
    cases hf : s.fg <;> rw [hf] at e hplace <;> dsimp only at e hplace
    case w1a b =>
      cases e
      refine ⟨id, ?_⟩
      cases s.hw.txEmpty <;> simp [State.transmitted, State.toSend, hf]
    case w2 b =>
      cases e
      refine ⟨id, ?_⟩
      cases s.sp.tx.isFull s.cfg.nTx <;> simp [State.transmitted, State.toSend, hf]
    case w1b b =>
      obtain ⟨hunbuffered, hready⟩ := hplace
      rw [if_pos hready] at e
      cases e
      have hempty : s.sp.tx.q s.cfg.nTx = [] := by
        rw [← List.length_eq_zero_iff, Ring.length_q, hring.count_eq_zero hunbuffered]
      refine ⟨id, ?_⟩
      simp [State.transmitted, State.toSend, hf, hempty]
    case w3 b =>
      cases e
      have hdrain := drainOne_transmits s
      have hmove : Transmits (drainOne s) { drainOne s with fg := .w2 b } :=
        { toSend := by rw [hdrain.toSend]; simp [State.toSend, hf] }
      exact ⟨(hdrain.trans hmove).noReset, (hdrain.trans hmove).transmitted hring⟩
    case w4 b =>
      cases e
      refine ⟨id, ?_⟩
      have hpush := hring.q_push (Nat.ne_of_lt hplace.2) b
      simp [State.transmitted, State.toSend, hf, hpush]
    all_goals exact absurd (by simp [State.toSend, hf]) hp

/-- R192: a run of the foreground in which no reset is scheduled keeps the transmitted bytes. -/
theorem continueFg_transmitted {s t : State} (h : FgRuns s) (hr : NoReset s.env) (e : continueFg s = .next t) :
    t.transmitted = s.transmitted := by
  have hkeep : ∀ {u v : State}, Transmits u v → FgRuns u → FgRuns v →
      NoReset u.env ∧ u.transmitted = s.transmitted → FgRuns v ∧ NoReset v.env ∧ v.transmitted = s.transmitted :=
    fun huv hu hv ⟨hn, htrans⟩ => ⟨hv, huv.noReset hn, (huv.transmitted hu.inv.tx).trans htrans⟩
  obtain ⟨-, -, htrans⟩ := runFg_keeps (P := fun u => FgRuns u ∧ NoReset u.env ∧ u.transmitted = s.transmitted)
    (fun u v hv ⟨hu, hn, htrans⟩ => by
      obtain ⟨v', hv', hruns⟩ := fgStep_goesOn hu
      obtain rfl : v' = v := by simpa [hv] using hv'.symm
      obtain ⟨hreset, hsame⟩ := fgStep_transmitted hu hv
      exact ⟨hruns, hreset hn, hsame.trans htrans⟩)
    (fun u g gs hg ⟨hu, hn, htrans⟩ =>
      ⟨⟨{ hu.inv with }, hu.noHandler⟩, fun g' hm => hn g' (hg ▸ List.mem_cons_of_mem _ hm), htrans⟩)
    (fun x u hx ⟨hu, hrest⟩ => hkeep (envEvent_transmits x u) hu
      ⟨envEvent_keeps_inv hx hu.inv, (envEvent_beside x u).cpu ▸ hu.noHandler⟩ hrest)
    (fun x u hc ⟨hu, hrest⟩ => hkeep (runHandler_transmits x u) hu ⟨runHandler_keeps_inv hc hu.inv, rfl⟩ hrest)
    (fun u g _ hg hm ⟨_, hn, _⟩ => absurd hm (hn g (hg ▸ List.mem_cons_self))) _ ⟨h, hr, rfl⟩ e
  exact htrans

/-! ### Operations -/

/-- R281: a foreground operation is issued where no write is in progress. -/
theorem inForeground_transmits {s : State} {a : Answer} (h : s.toSend = [] → Ensures (Transmits s) a) :
    Ensures (Transmits s) (inForeground s a) :=
  (ensures_iff _ _).2 fun t e => by
    obtain ⟨-, hidle, ha⟩ := inForeground_next e
    exact (ensures_iff _ _).1 (h (by simp [State.toSend, hidle])) t ha

theorem deliver_transmits (r : Result) (s : State) : Transmits s (deliver r s) := by
  unfold deliver
  split <;> exact {}

theorem environment_transmits (e : EnvEvent) (s : State) : Ensures (Transmits s) (environment e s) := by
  unfold environment
  split
  · exact envEvent_transmits e s
  · trivial

theorem sampleOf_transmits {s : State} (hp : s.toSend = []) (n : Nat) : Ensures (Transmits s) (sampleOf n s) := by
  unfold sampleOf
  split
  · exact finish_transmits hp _
  · trivial
  · trivial

theorem withResult_transmits {s : State} {a : Answer} (hp : s.toSend = []) (r : Result) (h : Ensures (Transmits s) a) :
    Ensures (Transmits s) (withResult r a) := by
  cases a with
  | next t => exact Transmits.trans h (finish_transmits (h.toSend.trans hp) r)
  | fault | refused => trivial

/-- R192: no other operation adds, drops or reorders a transmitted byte. -/
theorem exec_transmits {i : Instr} {s : State} (hr : NoReset s.env) (hreset : i ≠ .envReset) (hpop : i ≠ .rbPop .tx)
    (hwrite : ∀ b, i ≠ .spWrite b) (hpush : ∀ b, i ≠ .rbPush .tx b) (hinit : ∀ baud async, i ≠ .spInit baud async) :
    Ensures (Transmits s) (exec i s) := by
  cases i with
  | spEmpty | spTxEmpty | spTxReady | spOverflow | spClearOverflow | cli | sei =>
    exact inForeground_transmits fun hp => { toSend := hp.symm }
  | clkNow | spRead | spFlush | blSignal | pump | wait =>
    exact inForeground_transmits fun hp => startAt_transmits hp hr rfl
  | rbEmpty | rbFull | rbSize => exact inRingContext_ensures (deliver_transmits _ s)
  | rbPush r v =>
    cases r with
    | tx => exact absurd rfl (hpush v)
    | rx => exact inRingContext_ensures (Transmits.trans {} (deliver_transmits _ _))
  | rbPop r =>
    cases r with
    | tx => exact absurd rfl hpop
    | rx =>
      refine inRingContext_ensures ?_
      split
      · exact Transmits.trans {} (deliver_transmits _ _)
      · trivial
  | rbTop r =>
    refine inRingContext_ensures ?_
    split
    · exact deliver_transmits _ s
    · trivial
  | btfCheck b => exact inRingContext_ensures ((filterByte_transmits b s).trans (deliver_transmits _ _))
  | clkProcess => exact inHandler_ensures (handlerBody_transmits .tov s)
  | spIntrRx =>
    refine inHandler_ensures ?_
    split
    · exact intrRx_transmits _ s
    · trivial
  | spIntrTx => exact inHandler_ensures (intrTx_transmits s)
  | spProcessRx =>
    have h := processRx_transmits s
    exact inForeground_transmits fun hp => h.trans (finish_transmits (h.toSend.trans hp) _)
  | spProcessTx =>
    have h := drainOne_transmits s
    exact inForeground_transmits fun hp => h.trans (finish_transmits (h.toSend.trans hp) _)
  | dlNew | swNew =>
    refine inForeground_transmits fun hp => ?_
    split
    · exact startAt_transmits hp hr rfl
    · trivial
  | dlCancel d =>
    refine inForeground_transmits fun hp => ?_
    split
    · exact { toSend := hp.symm }
    · trivial
  | dlElapsed d =>
    refine inForeground_transmits fun hp => ?_
    split
    · split
      · split
        · exact finish_transmits hp _
        · exact startAt_transmits hp hr rfl
      · trivial
    · trivial
  | dlRestart | swElapsedTime =>
    refine inForeground_transmits fun hp => ?_
    split
    · split
      · exact startAt_transmits hp hr rfl
      · trivial
    · trivial
  | adcProcess =>
    have h := adcPoll_transmits s
    exact inForeground_transmits fun hp => h.trans (finish_transmits (h.toSend.trans hp) _)
  | adcValue | adcValueOf => exact inForeground_transmits fun hp => sampleOf_transmits hp _
  | adcStart => exact inForeground_transmits fun hp => withResult_transmits hp .none (startConversion_transmits s)
  | adcNext => exact inForeground_transmits fun hp => withResult_transmits hp .none (startNextConversion_transmits s)
  | cfPushData b =>
    refine inForeground_transmits fun hp => ?_
    split
    · split
      · exact startAt_transmits hp hr rfl
      · exact finish_transmits hp _
    · exact startAt_transmits hp hr rfl
  | cfPayload n =>
    refine inForeground_transmits fun hp => ?_
    split
    · split
      · exact finish_transmits hp _
      · trivial
    · trivial
  | blProcess =>
    refine inForeground_transmits fun hp => ?_
    split
    · exact finish_transmits hp _
    · exact startAt_transmits hp hr rfl
  | envTick n => exact tickMany_transmits n s
  | envRx | envTxDone | envAdcDone => exact environment_transmits _ s
  | spWrite b => exact absurd rfl (hwrite b)
  | spInit baud async => exact absurd rfl (hinit baud async)
  | envReset => exact absurd rfl hreset

/-- R182, R192: a write puts its byte after the transmitted bytes, wherever it stands when the machine step ends. -/
theorem exec_spWrite_transmitted {b : Byte} {s t : State} (h : Inv s) (hr : NoReset s.env)
    (e : exec (.spWrite b) s = .next t) : t.transmitted = s.transmitted ++ [b] := by
  obtain ⟨hn, hidle, e⟩ := inForeground_next e
  have hnone : s.toSend = [] := by simp [State.toSend, hidle]
  have hplace : FgOk { s with fg := if s.cfg.nTx = 0 then .w1a b else .w2 b } := by
    split <;> assumption
  have hpending : { s with fg := if s.cfg.nTx = 0 then .w1a b else .w2 b }.toSend = [b] := by
    by_cases hz : s.cfg.nTx = 0 <;> simp [State.toSend, hz]
  have hstart : { s with fg := if s.cfg.nTx = 0 then .w1a b else .w2 b }.transmitted = s.transmitted ++ [b] := by
    rw [State.transmitted_eq, hpending, State.transmitted_eq, hnone, List.append_nil]
    rfl
  exact (continueFg_transmitted ⟨h.move hplace, hn⟩ hr e).trans hstart

/-! ### Steps -/

theorem outerGap_transmits {s : State} (hr : NoReset s.env) : Transmits s (outerGap s) := by
  obtain ⟨-, e⟩ | ⟨g, gs, henv, e⟩ := outerGap_cases s <;> rw [e]
  · exact .refl s
  · have hgap : Transmits s { s with env := gs } := { noReset := fun hn g' hm => hn g' (henv ▸ List.mem_cons_of_mem _ hm) }
    exact hgap.trans (applyMoves_transmits (hr g (henv ▸ List.mem_cons_self)) _)

theorem enterHandler_transmits (s : State) : Transmits s (enterHandler s) := by
  obtain ⟨-, e⟩ | ⟨h, -, e⟩ := enterHandler_cases s <;> rw [e] <;> exact {}

/-- R192: a step that takes an interrupt or runs a handler keeps the transmitted bytes. -/
theorem step_interrupt_transmits {s t : State} (h : Inv s) (hr : NoReset s.env)
    (hirq : s.cpu.handler ≠ none ∨ chooseIrq s ≠ none) (e : step s = .next t) : Transmits s t := by
  have hgap := outerGap_transmits hr
  obtain ⟨x, u, hx, hne, hu, rfl⟩ | ⟨-, -, rfl⟩ | ⟨-, -, rfl⟩ | ⟨hn, hc, -⟩ | ⟨hn, hc, -⟩ | ⟨i, rest, hn, hc, -⟩ :=
    step_cases e
  · have hrun : (outerGap s).cpu.handler = some x := (outerGap_handler hx).resolve_right hne
    obtain rfl : handlerBody x (outerGap s) = u := by simpa [exec_body (outerGap_keeps_inv h) hrun] using hu
    exact (hgap.trans (handlerBody_transmits x _)).trans {}
  · exact hgap
  · exact hgap.trans (enterHandler_transmits _)
  all_goals simp [hn, hc] at hirq

/-- Settles O41: whatever has no byte to push keeps the line and the ring, and a write's labelled steps keep them with the
byte after them. -/
theorem transmitOrder : Obligations.TransmitOrder := by
  unfold Obligations.TransmitOrder
  refine ⟨fun i s t h hr e => ⟨?_, ?_, fun hreset hpop hwrite hpush hinit => ?_⟩, fun s t h hr e => ⟨?_, ?_⟩⟩
  · rintro b rfl hidle
    obtain ⟨-, hs, -⟩ := inForeground_next e
    have hall := exec_spWrite_transmitted h hr e
    rwa [← State.sent_eq_transmitted hidle, ← State.sent_eq_transmitted hs] at hall
  · rintro b rfl
    exact exec_spWrite_transmitted h hr e
  · have hkeep := (ensures_iff _ _).1 (exec_transmits hr hreset hpop hwrite hpush hinit) t e
    exact ⟨(hkeep.sent h.tx).2, hkeep.toSend⟩
  · intro hn hc hf
    have hgo : continueFg s = .next t := by simpa [step, hn, hc, hf] using e
    exact continueFg_transmitted ⟨h, hn⟩ hr hgo
  · exact fun hirq => (step_interrupt_transmits h hr hirq e).transmitted h.tx

end Sys2Proof.Machine
end

section
/-! SUPPORT. The receive and the transmit path of the serial port (R177 to R180, R184 to R189): everything that one frame
does and one byte sent, in the handlers and in the foreground's poll; construction, queries and the loss counter. -/

namespace Sys2Proof.Machine

/-! ### One frame -/

/-- R166: what the filter writes depends on the sequence, the progress and the boot count alone. -/
theorem filterByte_congr {s t : State} (b : Byte) (hcfg : t.cfg = s.cfg) (hp : t.sp.progress = s.sp.progress)
    (hb : t.bootRequest = s.bootRequest) : filterByte b t = { t with
      sp := { t.sp with progress := (filterByte b s).sp.progress }, bootRequest := (filterByte b s).bootRequest } := by
  have hnext : nextProgress t.cfg t.sp.progress b = nextProgress s.cfg s.sp.progress b := by rw [hcfg, hp]
  by_cases h : nextProgress s.cfg s.sp.progress b = s.cfg.bootSeq.length
  · rw [filterByte_full h, filterByte_full (hnext.trans (h.trans (hcfg ▸ rfl))), hb]
  · have ht : nextProgress t.cfg t.sp.progress b ≠ t.cfg.bootSeq.length := by rwa [hnext, hcfg]
    rw [filterByte_short h, filterByte_short ht, hnext, ← hb]

/-- The byte of the frame is dropped: the frame is good and finds the ring full (R185, I7). -/
def State.drops (s : State) (f : Frame) : Bool := !f.fe && decide (s.sp.rx.count = s.cfg.nRx)

/-- The loss counter when the frame has been taken (R24, R185). -/
def lossTaken (f : Frame) (s : State) : Nat := if f.ovf then addMod s.cfg.wLoss s.sp.loss 1 else s.sp.loss

/-- The loss counter after a frame (R24, R185). -/
def lossAfter (f : Frame) (s : State) : Nat :=
  if s.drops f then addMod s.cfg.wLoss (lossTaken f s) 1 else lossTaken f s

/-- The receive ring after a frame (R185). -/
def rxAfter (f : Frame) (s : State) : Ring := if f.fe then s.sp.rx else (ringPush s.cfg.nRx f.data s.sp.rx).1

/-- R185: the frame is consumed and an overflow counted. -/
theorem takeFrame_eq (f : Frame) (s : State) : takeFrame f s = { s with
    hw := { s.hw with rxFrame := none }
    sp := { s.sp with loss := lossTaken f s }
    past := { s.past with conditions := s.past.conditions ++ if f.ovf then [.rxHardwareOverflow] else [] } } := by
  obtain ⟨h, e⟩ | ⟨h, e⟩ := takeFrame_cases f s <;> rw [e] <;> simp [lossTaken, countLoss, raise, h]

/-- R185, I5 to I7: a byte is pushed after the filter has seen it, or dropped and counted. -/
theorem bufferByte_eq (b : Byte) (s : State) : bufferByte b s = { s with
    bootRequest := (filterByte b s).bootRequest
    sp := { s.sp with
      loss := if s.sp.rx.count = s.cfg.nRx then addMod s.cfg.wLoss s.sp.loss 1 else s.sp.loss
      progress := (filterByte b s).sp.progress
      rx := (ringPush s.cfg.nRx b s.sp.rx).1 }
    past := { s.past with
      conditions := s.past.conditions ++ if s.sp.rx.count = s.cfg.nRx then [.rxBufferFull] else [] } } := by
  have hfilter := filterByte_congr b (rfl : s.cfg = s.cfg) rfl rfl
  have hrx : (filterByte b s).sp.rx = s.sp.rx := by rw [hfilter]
  have hcfg : (filterByte b s).cfg = s.cfg := by rw [hfilter]
  obtain ⟨hc, e⟩ | ⟨hc, e⟩ := bufferByte_cases b s <;> rw [hrx, hcfg] at hc <;> rw [e, hfilter]
  · simp [countLoss, raise, hc, ringPush_full]
  · simp [hc]

/-- R185: everything one frame does. -/
theorem intrRx_eq_received (f : Frame) (s : State) : intrRx f s = { s with
    hw := { s.hw with rxFrame := none }
    bootRequest := (if f.fe then s else filterByte f.data s).bootRequest
    sp := { s.sp with
      loss := lossAfter f s
      progress := (if f.fe then s else filterByte f.data s).sp.progress
      rx := rxAfter f s }
    isrResult := .bool (!f.fe)
    past := { s.past with conditions := s.past.conditions ++ (if f.ovf then [.rxHardwareOverflow] else []) ++
      (if f.fe then [.framingError] else []) ++ (if s.drops f then [.rxBufferFull] else []) } } := by
  have hfilter := filterByte_congr (s := s) (t := takeFrame f s) f.data (by rw [takeFrame_eq]) (by rw [takeFrame_eq])
    (by rw [takeFrame_eq])
  obtain ⟨h, e⟩ | ⟨h, e⟩ := intrRx_cases f s <;> rw [e]
  · simp [takeFrame_eq, raise, State.drops, lossAfter, rxAfter, h]
  · rw [bufferByte_eq, hfilter, takeFrame_eq]
    simp [State.drops, lossAfter, rxAfter, h]

/-- R24: one count modulo `2^W_LOSS` for each loss. -/
theorem lossAfter_eq (f : Frame) {s : State} (h : FitsWidth s.cfg.wLoss s.sp.loss) : lossAfter f s =
    (s.sp.loss + ((if f.ovf then 1 else 0) + if s.drops f then 1 else 0)) % 2 ^ s.cfg.wLoss := by
  cases hd : s.drops f <;> cases ho : f.ovf <;>
    simp [lossAfter, lossTaken, addMod, hd, ho, Nat.mod_eq_of_lt h, Nat.add_assoc]

/-- R185: a frame with a framing error that is no overflow loses nothing. -/
theorem lossAfter_of_fe {f : Frame} (s : State) (hfe : f.fe = true) (ho : f.ovf = false) : lossAfter f s = s.sp.loss := by
  simp [lossAfter, lossTaken, State.drops, hfe, ho]

theorem intrRx_rx (f : Frame) (s : State) : (intrRx f s).sp.rx = rxAfter f s := by rw [intrRx_eq_received]

theorem intrRx_loss (f : Frame) (s : State) : (intrRx f s).sp.loss = lossAfter f s := by rw [intrRx_eq_received]

theorem intrRx_cfg (f : Frame) (s : State) : (intrRx f s).cfg = s.cfg := (intrRx_beside f s).cfg

/-! ### The operations on one frame -/

/-- R184, R281: the foreground's poll where it may be issued. -/
theorem exec_spProcessRx {s : State} (h : Ready s) : exec .spProcessRx s = .next (finish .none (processRx s)) :=
  inForeground_idle _ h.1 h.2

theorem processRx_some {f : Frame} {s : State} (h : s.hw.rxFrame = some f) : processRx s = intrRx f s := by
  simp [processRx, h]

theorem processRx_none {s : State} (h : s.hw.rxFrame = none) : processRx s = s := by simp [processRx, h]

theorem exec_spIntrRx {f : Frame} {s : State} (hh : s.cpu.handler = some .rxc) (h : s.hw.rxFrame = some f) :
    exec .spIntrRx s = .next (intrRx f s) :=
  (inHandler_eq _ hh).trans (by rw [h])

/-- U12. -/
theorem exec_spIntrRx_noFrame {s : State} (hh : s.cpu.handler = some .rxc) (h : s.hw.rxFrame = none) :
    exec .spIntrRx s = .refused .noFrame :=
  (inHandler_eq _ hh).trans (by rw [h])

/-- Settles O37: the handler and the poll do the same with a frame that waits. -/
theorem spReceive : Obligations.SpReceive := by
  unfold Obligations.SpReceive
  intro s
  refine ⟨?_, fun hf h => ?_, fun hf hh => exec_spIntrRx_noFrame hh hf⟩
  · intro f hf hfits full lost seen u
    have hreceived : intrRx f s = u := by
      have hrx : rxAfter f s = u.sp.rx := by
        by_cases hc : s.sp.rx.count = s.cfg.nRx <;> cases hfe : f.fe <;>
          simp [rxAfter, u, full, hfe, hc, ringPush_full, ringPush_free]
      rw [intrRx_eq_received, lossAfter_eq f hfits, hrx]
      rfl
    refine ⟨fun hh => ?_, fun h => ?_⟩
    · rw [exec_spIntrRx hh hf, hreceived]
    · rw [exec_spProcessRx h, processRx_some hf, hreceived]
  · rw [exec_spProcessRx h, processRx_none hf]

/-- Settles O39: the counter rises by the losses of `lossAfter` and by nothing else. -/
theorem spLoss : Obligations.SpLoss := by
  unfold Obligations.SpLoss
  intro s
  have hread : ∀ {u : State}, Ready u → exec .spOverflow u = .next (finish (.loss u.sp.loss) u) :=
    fun h => inForeground_idle _ h.1 h.2
  have hclear : Ready s → exec .spClearOverflow s = .next (finish .none { s with sp := { s.sp with loss := 0 } }) :=
    fun h => inForeground_idle _ h.1 h.2
  refine ⟨rfl, rfl, hread, hclear, fun t h e => ?_, ?_, fun f t hf hfe ho e => ?_⟩
  · cases (hclear h).symm.trans e
    exact hread ⟨h.1, rfl⟩
  · intro f hf hfits overflow dropped
    have hloss : (intrRx f s).sp.loss = (s.sp.loss + overflow + dropped) % 2 ^ s.cfg.wLoss := by
      rw [intrRx_loss, lossAfter_eq f hfits, Nat.add_assoc]
      simp [overflow, dropped, State.drops]
    refine ⟨fun hh => ⟨_, exec_spIntrRx hh hf, hloss⟩, fun h => ⟨_, exec_spProcessRx h, ?_⟩⟩
    rw [processRx_some hf]
    exact hloss
  · rw [← lossAfter_of_fe s hfe ho, ← intrRx_loss]
    obtain e | e := e
    · cases (exec_spIntrRx (inHandler_next e).1 hf).symm.trans e
      rfl
    · obtain ⟨hh, hidle, -⟩ := inForeground_next e
      cases (exec_spProcessRx ⟨hh, hidle⟩).symm.trans e
      rw [processRx_some hf]
      rfl

/-! ### A stream of frames -/

/-- R185, R191 on the sequence: a good frame's byte is the last of the ring, if it finds a free slot. -/
theorem rxAfter_q (f : Frame) {s : State} (h : RingOk s.cfg.nRx s.sp.rx) : RingOk s.cfg.nRx (rxAfter f s) ∧
    (rxAfter f s).q s.cfg.nRx = s.sp.rx.q s.cfg.nRx ++ (if f.fe || s.drops f then [] else [f.data]) := by
  cases hfe : f.fe with
  | true => simpa [rxAfter, hfe] using h
  | false =>
    refine ⟨by simpa [rxAfter, hfe] using h.push f.data, ?_⟩
    by_cases hc : s.sp.rx.count = s.cfg.nRx
    · simp [rxAfter, State.drops, hfe, hc, ringPush_full]
    · simp [rxAfter, State.drops, hfe, hc, h.q_push]

/-- Settles O40: by induction on the frames. -/
theorem receiveStream : Obligations.ReceiveStream := by
  unfold Obligations.ReceiveStream
  intro fs
  induction fs with
  | nil => exact fun s h hfits => ⟨h, by simp, by simp [Nat.mod_eq_of_lt hfits]⟩
  | cons f fs ih =>
    intro s h hfits
    obtain ⟨hring, hq⟩ := rxAfter_q f h
    have hlen : (rxAfter f s).count = s.sp.rx.count + if f.fe || s.drops f then 0 else 1 := by
      rw [← Ring.length_q s.cfg.nRx, hq, List.length_append, Ring.length_q]
      split <;> rfl
    have hrest := ih (intrRx f s)
    simp only [intrRx_rx, intrRx_loss, intrRx_cfg, hq, hlen, lossAfter_eq f hfits] at hrest
    obtain ⟨hok, hqs, hloss⟩ := hrest hring (fitsWidth_mod _ _)
    have hovf : ((f :: fs).filter Frame.ovf).length = (if f.ovf then 1 else 0) + (fs.filter Frame.ovf).length := by
      cases ho : f.ovf <;> simp [ho, Nat.add_comm]
    have hle := h.count_le
    rw [Nat.add_assoc, Nat.mod_add_mod] at hloss
    refine ⟨hok, hqs.trans ?_, hloss.trans ?_⟩
    all_goals
      cases hfe : f.fe with
      | true => simp [State.drops, hfe, hovf, Nat.add_assoc]
      | false =>
        by_cases hc : s.sp.rx.count = s.cfg.nRx
        · simp [State.drops, hfe, hc, hovf, Nat.add_assoc, Nat.add_comm, Nat.add_left_comm]
        · have hroom : s.cfg.nRx - s.sp.rx.count = s.cfg.nRx - (s.sp.rx.count + 1) + 1 := by omega
          simp [State.drops, hfe, hc, hovf, hroom, Nat.add_assoc]

/-! ### One byte sent -/

/-- R186: the byte at the head of the ring goes to a transmitter that is ready. -/
theorem drainOne_ready {s : State} (hc : s.sp.tx.count ≠ 0) (hr : s.hw.txEmpty = true) : drainOne s = { s with
    sp := { s.sp with tx := { s.sp.tx with head := (s.sp.tx.head + 1) % s.cfg.nTx, count := s.sp.tx.count - 1 } }
    hw := { s.hw with txEmpty := false }
    lineOut := s.lineOut ++ [s.sp.tx.front] } := by
  obtain ⟨-, h | h⟩ | ⟨-, -, e⟩ := drainOne_cases s
  · simp [hr] at h
  · exact absurd h hc
  · exact e

theorem drainOne_eq_self {s : State} (h : s.sp.tx.count = 0 ∨ s.hw.txEmpty = false) : drainOne s = s := by
  obtain ⟨e, -⟩ | ⟨hr, hc, -⟩ := drainOne_cases s
  · exact e
  · simp [hr, hc] at h

/-- R187: the DRE interrupt is disarmed with the last byte. -/
theorem intrTx_eq (s : State) : intrTx s = { drainOne s with
    hw := { (drainOne s).hw with dreIe := (drainOne s).hw.dreIe && decide ((drainOne s).sp.tx.count ≠ 0) } } := by
  obtain ⟨hc, e⟩ | ⟨hc, e⟩ := intrTx_cases s <;> rw [e] <;> simp [hc]

/-- R186, R281: the foreground's poll where it may be issued. -/
theorem exec_spProcessTx {s : State} (h : Ready s) : exec .spProcessTx s = .next (finish .none (drainOne s)) :=
  inForeground_idle _ h.1 h.2

theorem exec_spIntrTx {s : State} (h : s.cpu.handler = some .dre) : exec .spIntrTx s = .next (intrTx s) :=
  inHandler_eq _ h

/-- Settles O38: one byte or none is sent, and the handler looks at what the ring then holds. -/
theorem spTransmit : Obligations.SpTransmit := by
  unfold Obligations.SpTransmit
  intro s pop line
  refine ⟨fun h hc hr => ?_, fun h hnone => ?_, fun hh hc hr => ?_, fun hh hc hr => ?_, fun hh hc => ?_⟩
  · rw [exec_spProcessTx h, drainOne_ready hc hr]
    rfl
  · rw [exec_spProcessTx h, drainOne_eq_self hnone]
  · have hlast : s.sp.tx.count - 1 ≠ 0 ↔ s.sp.tx.count ≠ 1 := by omega
    rw [exec_spIntrTx hh, intrTx_eq, drainOne_ready hc hr]
    simp only [hlast]
    rfl
  · rw [exec_spIntrTx hh, intrTx_eq, drainOne_eq_self (.inr hr)]
    simp [hc]
  · rw [exec_spIntrTx hh, intrTx_eq, drainOne_eq_self (.inl hc)]
    simp [hc]

/-! ### Construction and queries -/

/-- R177, R281: construction where it may be issued. -/
theorem exec_spInit {s : State} (h : Ready s) (baud : BitVec 32) (async : Bool) : exec (.spInit baud async) s =
    if baud = 0 then .refused .operandRange
    else if s.sp.inited then .refused .alreadyInitialised
    else .next (finish .none (constructPort baud async s)) :=
  inForeground_idle _ h.1 h.2

/-- Settles O32: the baud rate is looked at first, then whether the port has been constructed. -/
theorem spInit : Obligations.SpInit := by
  unfold Obligations.SpInit
  intro baud async s h
  refine ⟨fun hb hi => ?_, fun hb hi => ?_, ?_⟩
  · rw [exec_spInit h, if_neg hb, if_neg (by simp [hi])]
    rfl
  · rw [exec_spInit h, if_neg hb, if_pos hi]
  · rw [exec_spInit h, if_pos rfl]

section
variable {s : State} (h : Ready s)
include h

theorem exec_spEmpty : exec .spEmpty s = .next (finish (.bool (decide (s.sp.rx.count = 0))) s) :=
  inForeground_idle _ h.1 h.2

theorem exec_spTxEmpty : exec .spTxEmpty s = .next (finish (.bool (decide (s.sp.tx.count = 0))) s) :=
  inForeground_idle _ h.1 h.2

theorem exec_spTxReady : exec .spTxReady s = .next (finish (.bool (decide (s.sp.tx.count < s.cfg.nTx))) s) :=
  inForeground_idle _ h.1 h.2

end

/-- Settles O33: each query answers from the count of a ring, whatever the hardware state. -/
theorem spQueries : Obligations.SpQueries := by
  unfold Obligations.SpQueries
  intro s h
  exact ⟨rfl, rfl, exec_spEmpty h, exec_spTxEmpty h, exec_spTxReady h,
    fun hw => ⟨exec_spEmpty (s := { s with hw := hw }) h, exec_spTxEmpty (s := { s with hw := hw }) h⟩,
    RingOk.count_eq_zero⟩

end Sys2Proof.Machine
end

section
/-! SUPPORT. The blocking operations of the serial port (R181 to R183, R193, R320): runs of labelled steps in a quiet
environment, with the poll of `SP.READ` and the loops in which the port waits for the hardware. -/

namespace Sys2Proof.Machine

/-! ### Runs in a quiet environment -/

theorem requests_eq_nil_iff (s : State) : s.requests = [] ↔ ∀ h, s.request h = false := by
  simp only [List.eq_nil_iff_forall_not_mem, mem_requests, Bool.not_eq_true]

/-- What raises no request leaves the foreground undisturbed (R53, R267). -/
theorem Undisturbed.of_requests {s t : State} (h : Undisturbed s) (hcpu : t.cpu = s.cpu)
    (hreq : ∀ x, s.request x = false → t.request x = false) : Undisturbed t := by
  obtain hg | hnone := h
  · exact .inl (by rw [hcpu, hg])
  · exact .inr ((requests_eq_nil_iff t).2 fun x => hreq x ((requests_eq_nil_iff s).1 hnone x))

theorem Undisturbed.chooseIrq_eq_none {s : State} (h : Undisturbed s) : chooseIrq s = none :=
  (chooseIrq_none s).2 (h.imp_left fun hg => by simp [State.mayTake, hg])

/-- A step with nothing issued goes on with the operation in progress (R68). -/
theorem step_goOn {s : State} (hn : s.cpu.handler = none) (hc : chooseIrq s = none) (hi : s.issue = [])
    (hf : s.fg.isIdle = false) : step s = continueFg s := by
  simp [step, fetch, hn, hc, hi, hf]

theorem continueFg_quiet {s : State} (h : s.env = []) : continueFg s = runFg 32 s := by
  rw [continueFg, h]
  rfl

/-- A labelled step of an operation that goes on in a quiet environment, and the service after it (R10, R268). -/
theorem runFg_serve {n : Nat} {s t : State} (hstep : fgStep s = .next t) (hgo : t.fg.isIdle = false) (henv : t.env = []) :
    runFg (n + 1) s = if (serveAll t).awaits then .next (serveAll t) else runFg n (serveAll t) := by
  simp [runFg, hstep, hgo, henv]

section
variable {n : Nat} {s t : State} (hstep : fgStep s = .next t) (hgo : t.fg.isIdle = false) (henv : t.env = [])
  (hu : Undisturbed t)
include hstep hgo henv hu

/-- The run goes on where the foreground does not wait. -/
theorem runFg_goes (hw : t.awaits = false) : runFg (n + 1) s = runFg n t := by
  rw [runFg_serve hstep hgo henv, hu.serveAll_eq_self, if_neg (by simp [hw])]

/-- The run pauses where the foreground waits (U14, R193). -/
theorem runFg_pauses (hw : t.awaits = true) : runFg (n + 1) s = .next t := by
  rw [runFg_serve hstep hgo henv, hu.serveAll_eq_self, if_pos hw]

end

/-- What is blind to the foreground does not see its place. -/
theorem ForegroundBlind.place {f : State → State} (hf : ForegroundBlind f) (s : State) (l : Fg) :
    f { s with fg := l } = { f s with fg := l } := by
  have hsame : (f s).withForeground s = f s := hf.shows rfl
  calc f { s with fg := l } = (f s).withForeground { s with fg := l } := hf s { s with fg := l }
    _ = { (f s).withForeground s with fg := l } := rfl
    _ = { f s with fg := l } := by rw [hsame]

/-! ### Service while no frame waits -/

theorem serveAll_place (s : State) : (serveAll s).fg = s.fg ∧ (serveAll s).env = s.env :=
  serveAll_keeps (P := fun u => u.fg = s.fg ∧ u.env = s.env)
    (fun x u _ ⟨hfg, henv⟩ => ⟨(runHandler_place x u).1.trans hfg, (runHandler_place x u).2.trans henv⟩) ⟨rfl, rfl⟩

/-- R270: service returns to the processor state it began in. -/
theorem serveAll_cpu (s : State) : (serveAll s).cpu = s.cpu :=
  serveAll_keeps (P := fun u => u.cpu = s.cpu)
    (fun x _ hc h => (runHandler_cpu x _).trans ((cpu_of_chooseIrq hc).symm.trans h)) rfl

theorem serveAll_cfg (s : State) : (serveAll s).cfg = s.cfg :=
  (serveAll_keeps (P := Grows s) (fun x u _ h => h.trans (runHandler_grows x u)) (.refl s)).cfg

theorem drainOne_rx (s : State) : (drainOne s).sp.rx = s.sp.rx := by
  obtain ⟨e, -⟩ | ⟨-, -, e⟩ := drainOne_cases s <;> rw [e]
  rfl

/-- With no frame waiting no handler touches the receive ring (R266). -/
theorem runHandler_noFrame (x : Handler) {s : State} (h : s.hw.rxFrame = none) :
    (runHandler x s).hw.rxFrame = none ∧ (runHandler x s).sp.rx = s.sp.rx := by
  have hentry : (returnIrq (takeIrq x s)).hw.rxFrame = none := h
  rw [runHandler_eq]
  cases x with
  | tov => exact ⟨h, rfl⟩
  | rxc => simp only [handlerBody, processRx_none hentry]; exact ⟨h, rfl⟩
  | dre =>
    simp only [handlerBody, intrTx_eq, drainOne_rx]
    rw [drainOne_frame]
    exact ⟨h, rfl⟩

theorem serveAll_noFrame {s : State} (h : s.hw.rxFrame = none) :
    (serveAll s).hw.rxFrame = none ∧ (serveAll s).sp.rx = s.sp.rx :=
  serveAll_keeps (P := fun u => u.hw.rxFrame = none ∧ u.sp.rx = s.sp.rx)
    (fun x _ _ ⟨hu, hrx⟩ => ⟨(runHandler_noFrame x hu).1, (runHandler_noFrame x hu).2.trans hrx⟩) ⟨h, rfl⟩

/-! ### SP.READ -/

theorem processRx_env (s : State) : (processRx s).env = s.env := by rw [processRx_frame]

theorem processRx_rxFrame (s : State) : (processRx s).hw.rxFrame = none := by rw [processRx_frame]

/-- The state right after RD2c: the poll of `SP.READ` has been made and its `SEI` has enabled interrupts (R181). -/
def State.afterPoll (s : State) : State := { processRx s with cpu := { gie := true, handler := none }, fg := .rd1 }

theorem afterPoll_rxFrame (s : State) : s.afterPoll.hw.rxFrame = none := processRx_rxFrame s

/-- The state when the handlers that were held back have run (R320). -/
def State.polled (s : State) : State := serveAll s.afterPoll

theorem polled_nRx (s : State) : s.polled.cfg.nRx = s.cfg.nRx :=
  congrArg Params.nRx ((serveAll_cfg _).trans (processRx_grows s).cfg)

theorem polled_cpu (s : State) : s.polled.cpu = { gie := true, handler := none } := serveAll_cpu _

theorem polled_requests (s : State) : s.polled.requests = [] := (serveAll_requests rfl).2

theorem polled_fg (s : State) : s.polled.fg = .rd1 := (serveAll_place _).1

theorem polled_env (s : State) : s.polled.env = s.env := (serveAll_place _).2.trans (processRx_env s)

theorem polled_rxFrame (s : State) : s.polled.hw.rxFrame = none := (serveAll_noFrame (afterPoll_rxFrame s)).1

theorem polled_rx (s : State) : s.polled.sp.rx = (processRx s).sp.rx := (serveAll_noFrame (afterPoll_rxFrame s)).2

/-- Without a request the `SEI` of the poll lets no handler run. -/
theorem polled_eq {s : State} (h : s.requests = []) : s.polled = s.afterPoll := by
  have hquiet : Undisturbed s.afterPoll := by
    refine .inr ((requests_eq_nil_iff _).2 fun x => ?_)
    have hx := (requests_eq_nil_iff s).1 h x
    rw [State.afterPoll, processRx_frame]
    cases x with
    | tov | dre => exact hx
    | rxc => simp [State.request, Periph.rxEmpty]
  exact hquiet.serveAll_eq_self

/-- RD3 on a ring that holds a byte (R181). -/
theorem readByte_nonempty {n : Nat} {s : State} (hn : s.cfg.nRx = n) (h : s.sp.rx.count ≠ 0) :
    readByte s = .next (finish (.byte s.sp.rx.front)
      { s with sp := { s.sp with rx := { s.sp.rx with head := (s.sp.rx.head + 1) % n,
                                                      count := s.sp.rx.count - 1 } } }) := by
  rw [readByte, ringPop_nonempty _ h, hn]

/-- RD1 to RD3 with a byte in the ring (R181). -/
theorem runFg_rd1_byte (n : Nat) {s : State} (henv : s.env = []) (hu : Undisturbed s) (hc : s.sp.rx.count ≠ 0) :
    runFg (n + 1) { s with fg := .rd1 } = readByte s := by
  have hquiet : Undisturbed { s with fg := Fg.rd3 } := hu
  have hrd1 : fgStep { s with fg := .rd1 } = .next { s with fg := .rd3 } := by simp [fgStep, Ring.isEmpty, hc]
  rw [runFg_goes hrd1 rfl henv hquiet rfl, readByte_nonempty rfl hc]
  exact runFg_of_idle (readByte_nonempty (s := { s with fg := .rd3 }) rfl hc) rfl

/-- RD1 to RD2c with an empty ring: the poll, and then the byte that it has brought, or the loop (R181, R193, R320). -/
theorem continueFg_rd1_poll {s : State} (hn : s.cpu.handler = none) (henv : s.env = []) (hu : Undisturbed s)
    (hc : s.sp.rx.count = 0) : continueFg { s with fg := .rd1 } =
      if s.polled.sp.rx.count = 0 then .next s.polled else readByte s.polled := by
  have henv' : (processRx s).env = [] := (processRx_env s).trans henv
  have hrd1 : fgStep { s with fg := .rd1 } = .next { s with fg := .rd2a } := by simp [fgStep, Ring.isEmpty, hc]
  have hrd2a : fgStep { s with fg := .rd2a } = .next { s with cpu := { gie := false, handler := none }, fg := .rd2b } := by
    simp [fgStep, hn]
  have hrd2b : fgStep { s with cpu := { gie := false, handler := none }, fg := .rd2b } =
      .next { processRx s with cpu := { gie := false, handler := none }, fg := .rd2c } := by
    simp only [fgStep]
    rw [processRx_blind.place { s with cpu := { gie := false, handler := none } }, processRx_cpu]
  have hrd2c : fgStep { processRx s with cpu := { gie := false, handler := none }, fg := .rd2c } =
      .next s.afterPoll := rfl
  have hquiet : Undisturbed s.polled := .inr (polled_requests s)
  have hawaits : s.polled.awaits = decide (s.polled.sp.rx.count = 0) := by
    simp [State.awaits, polled_fg, Ring.isEmpty, Periph.rxEmpty, polled_rxFrame, beq_eq_decide]
  have hplace : { s.polled with fg := .rd1 } = s.polled := by rw [← polled_fg s]
  calc continueFg { s with fg := .rd1 }
    _ = runFg 32 { s with fg := .rd1 } := continueFg_quiet henv
    _ = runFg 31 { s with fg := .rd2a } := runFg_goes hrd1 rfl henv hu rfl
    _ = runFg 30 { s with cpu := { gie := false, handler := none }, fg := .rd2b } :=
      runFg_goes hrd2a rfl henv (.inl rfl) rfl
    _ = runFg 29 { processRx s with cpu := { gie := false, handler := none }, fg := .rd2c } :=
      runFg_goes hrd2b rfl henv' (.inl rfl) rfl
    _ = if s.polled.awaits then .next s.polled else runFg 28 s.polled := runFg_serve hrd2c rfl henv'
    _ = if s.polled.sp.rx.count = 0 then .next s.polled else readByte s.polled := by
      by_cases hempty : s.polled.sp.rx.count = 0
      · simp [hawaits, hempty]
      · have hread := runFg_rd1_byte 27 ((polled_env s).trans henv) hquiet hempty
        rw [hplace] at hread
        simp [hawaits, hempty, hread]

/-- R193: with no byte, no frame and no request the loop of `SP.READ` repeats itself. -/
theorem step_rd1_spins {s : State} (hfg : s.fg = .rd1) (hcpu : s.cpu = { gie := true, handler := none })
    (hi : s.issue = []) (henv : s.env = []) (hreq : s.requests = []) (hc : s.sp.rx.count = 0)
    (hframe : s.hw.rxFrame = none) : step s = .next s := by
  have hn : s.cpu.handler = none := by rw [hcpu]
  have hu : Undisturbed s := .inr hreq
  have hplace : { s with fg := .rd1 } = s := by rw [← hfg]
  have hpolled : s.polled = s := by rw [polled_eq hreq, State.afterPoll, processRx_none hframe, ← hcpu, ← hfg]
  have hpoll := continueFg_rd1_poll hn henv hu hc
  rw [hplace, hpolled, if_pos hc] at hpoll
  exact (step_goOn hn hu.chooseIrq_eq_none hi (by rw [hfg]; rfl)).trans hpoll

/-- R281: `SP.READ` where it may be issued. -/
theorem exec_spRead {s : State} (h : Ready s) : exec .spRead s = continueFg { s with fg := .rd1 } :=
  inForeground_idle _ h.1 h.2

/-- The poll's byte is the one in the ring (R181, R191). -/
theorem RingOk.push_front {n : Nat} {R : Ring} (h : RingOk n R) (hc : R.count = 0) (hn : n ≠ 0) (v : Byte) :
    (ringPush n v R).1.count = 1 ∧ (ringPush n v R).1.front = v := by
  have hfree : R.count ≠ n := by omega
  have hone : (ringPush n v R).1.count = 1 := by simp [ringPush_free v hfree, hc]
  have hnone : R.q n = [] := by rw [← List.length_eq_zero_iff, Ring.length_q, hc]
  have hq := (h.push v).q_pop (by omega)
  rw [h.q_push hfree, hnone] at hq
  exact ⟨hone, (List.cons.inj hq).1.symm⟩

/-- Settles O34: the byte in the ring, or the poll and what it has brought. -/
theorem spRead : Obligations.SpRead := by
  unfold Obligations.SpRead
  rintro s ⟨hready, henv, hu⟩
  obtain ⟨hn, hidle⟩ := hready
  have hcpu : ({ s.cpu with gie := true } : Cpu) = { gie := true, handler := none } := congrArg (Cpu.mk true) hn
  have hpoll : s.sp.rx.count = 0 → exec .spRead s =
      if s.polled.sp.rx.count = 0 then .next s.polled else readByte s.polled := fun hc =>
    (exec_spRead ⟨hn, hidle⟩).trans (continueFg_rd1_poll hn henv hu hc)
  refine ⟨fun hc => ?_, fun f hc hf hfe hreq hring hrx => ?_, ?_, ?_, ?_⟩
  · have hrun := (continueFg_quiet (s := { s with fg := .rd1 }) henv).trans
      ((runFg_rd1_byte 31 henv hu hc).trans (readByte_nonempty rfl hc))
    exact (exec_spRead ⟨hn, hidle⟩).trans hrun
  · obtain ⟨hone, hfront⟩ := hring.push_front hc hrx f.data
    have hpushed : s.polled.sp.rx = (ringPush s.cfg.nRx f.data s.sp.rx).1 := by
      rw [polled_rx, processRx_some hf, intrRx_rx, rxAfter, hfe]
      rfl
    have hcount : s.polled.sp.rx.count = 1 := by rw [hpushed, hone]
    refine ⟨_, (hring.push f.data).pop (by omega), by simp [hone], ?_⟩
    rw [hpoll hc, if_neg (by omega), readByte_nonempty (polled_nRx s) (by omega), hpushed, hfront, polled_eq hreq,
      State.afterPoll, processRx_some hf, ← hcpu]
    rfl
  · intro hc hf hreq u
    have hu' : s.polled = u := by rw [polled_eq hreq, State.afterPoll, processRx_none hf, ← hcpu]
    refine ⟨?_, step_rd1_spins rfl hcpu rfl henv hreq hc hf⟩
    rw [hpoll hc, hu', if_pos hc]
  · intro f hc hf hfe hreq u
    have hu' : s.polled = u := by rw [polled_eq hreq, State.afterPoll, processRx_some hf, ← hcpu]
    have hrx : u.sp.rx = s.sp.rx := by rw [← hu', polled_rx, processRx_some hf, intrRx_rx, rxAfter, hfe]; rfl
    have hframe : u.hw.rxFrame = none := by rw [← hu', polled_rxFrame]
    have hprogress : u.sp.progress = s.sp.progress := by
      simp only [u]
      rw [intrRx_eq_received, hfe]
      rfl
    have hempty : u.sp.rx.count = 0 := by rw [hrx, hc]
    have henv' : u.env = [] := by rw [← hu', polled_env, henv]
    have hreq' : u.requests = [] := by rw [← hu', polled_requests]
    refine ⟨hframe, hrx, hprogress, ?_, step_rd1_spins rfl hcpu rfl henv' hreq' hempty hframe⟩
    rw [hpoll hc, hu', if_pos hempty]
  · intro hc u
    refine ⟨polled_requests s, polled_cpu s, polled_rx s, fun hempty => ?_, fun hbyte => ?_⟩
    · exact (hpoll hc).trans (if_pos hempty)
    · exact (hpoll hc).trans ((if_neg hbyte).trans (readByte_nonempty (polled_nRx s) hbyte))

end Sys2Proof.Machine
end

section
/-! SUPPORT. `SP.WRITE` and `SP.FLUSH` with nothing beside them (R182, R183, R186, R193): the runs to their ends, and the
loops in which they wait behind a busy transmitter. -/

namespace Sys2Proof.Machine

/-! ### A place inside an operation -/

theorem continueFg_at {s : State} (henv : s.env = []) (l : Fg) :
    continueFg { s with fg := l } = runFg 32 { s with fg := l } :=
  continueFg_quiet (s := { s with fg := l }) henv

/-- A step with nothing issued goes on from a place inside an operation, where no handler will run (R68). -/
theorem Alone.step_at {s : State} (h : Alone s) {l : Fg} (hl : l.isIdle = false) :
    step { s with fg := l, issue := [] } = continueFg { s with fg := l, issue := [] } := by
  have hu : Undisturbed { s with fg := l, issue := [] } := h.undisturbed
  exact step_goOn h.ready.1 hu.chooseIrq_eq_none rfl hl

/-! ### SP.WRITE -/

/-- R281: `SP.WRITE` where it may be issued. -/
theorem exec_spWrite {s : State} (h : Ready s) (b : Byte) :
    exec (.spWrite b) s = continueFg { s with fg := if s.cfg.nTx = 0 then .w1a b else .w2 b } :=
  inForeground_idle _ h.1 h.2

theorem drainOne_env (s : State) : (drainOne s).env = s.env := by rw [drainOne_frame]

/-- A byte sent raises no request (R53, R186). -/
theorem Undisturbed.drainOne {s : State} (h : Undisturbed s) : Undisturbed (drainOne s) := by
  refine h.of_requests (by rw [drainOne_frame]) fun x hx => ?_
  obtain ⟨e, -⟩ | ⟨-, -, e⟩ := drainOne_cases s <;> rw [e]
  · exact hx
  · cases x with
    | tov | rxc => exact hx
    | dre => exact Bool.and_false _

section
variable {s : State} (henv : s.env = []) (hu : Undisturbed s) (b : Byte)

theorem fgStep_w2_full (hfull : s.sp.tx.count = s.cfg.nTx) :
    fgStep { s with fg := .w2 b } = .next { s with fg := .w3 b } := by
  simp [fgStep, Ring.isFull, hfull]

theorem fgStep_w3 : fgStep { s with fg := .w3 b } = .next { drainOne s with fg := .w2 b } := by
  simp only [fgStep]
  rw [drainOne_blind.place s]

include henv hu

/-- W2, W4 and W5 with a free slot (R182). -/
theorem runFg_w2_free (n : Nat) (hfree : s.sp.tx.count ≠ s.cfg.nTx) : runFg (n + 2) { s with fg := .w2 b } =
    .next (finish .none { s with sp := { s.sp with tx := (ringPush s.cfg.nTx b s.sp.tx).1 }
                                 hw := { s.hw with dreIe := s.hw.dreIe || s.sp.asyncTx } }) := by
  have hw2 : fgStep { s with fg := .w2 b } = .next { s with fg := .w4 b } := by simp [fgStep, Ring.isFull, hfree]
  have hw4 : fgStep { s with fg := .w4 b } =
      .next { s with sp := { s.sp with tx := (ringPush s.cfg.nTx b s.sp.tx).1 }, fg := .w5 } := rfl
  rw [runFg_goes hw2 rfl henv hu rfl, runFg_goes hw4 rfl henv hu rfl]
  exact runFg_of_idle rfl rfl

/-- W2 and W3 on a full ring with a ready transmitter: one byte is sent (R182). -/
theorem runFg_w2_drains (n : Nat) (hfull : s.sp.tx.count = s.cfg.nTx) (hc : s.sp.tx.count ≠ 0) (hr : s.hw.txEmpty = true) :
    runFg (n + 2) { s with fg := .w2 b } = runFg n { drainOne s with fg := .w2 b } := by
  have hgo : (drainOne s).sp.tx.isFull (drainOne s).cfg.nTx = false := by
    rw [drainOne_ready hc hr]
    simp only [Ring.isFull, beq_eq_false_iff_ne]
    omega
  have henv' : (drainOne s).env = [] := (drainOne_env s).trans henv
  rw [runFg_goes (fgStep_w2_full b hfull) rfl henv hu (by simp [State.awaits, hr]),
    runFg_goes (fgStep_w3 b) rfl henv' hu.drainOne (by simp [State.awaits, hgo])]

/-- A full ring behind a busy transmitter (R193). -/
theorem continueFg_w2_waits (hfull : s.sp.tx.count = s.cfg.nTx) (hb : s.hw.txEmpty = false) :
    continueFg { s with fg := .w2 b } = .next { s with fg := .w3 b } :=
  (continueFg_at henv _).trans
    (runFg_pauses (fgStep_w2_full b hfull) rfl henv hu (by simp [State.awaits, Ring.isFull, hfull, hb]))

theorem continueFg_w3_waits (hfull : s.sp.tx.count = s.cfg.nTx) (hb : s.hw.txEmpty = false) :
    continueFg { s with fg := .w3 b } = .next { s with fg := .w2 b } := by
  have hw3 : fgStep { s with fg := .w3 b } = .next { s with fg := .w2 b } := by
    rw [fgStep_w3, drainOne_eq_self (.inr hb)]
  exact (continueFg_at henv _).trans
    (runFg_pauses hw3 rfl henv hu (by simp [State.awaits, Ring.isFull, hfull, hb]))

/-- W1a and W1b with a ready transmitter: an unbuffered port sends (R182). -/
theorem continueFg_w1a_ready (hr : s.hw.txEmpty = true) :
    continueFg { s with fg := .w1a b } = .next (finish .none (hwSend b s)) := by
  have hw1a : fgStep { s with fg := .w1a b } = .next { s with fg := .w1b b } := by simp [fgStep, hr]
  have hw1b : fgStep { s with fg := .w1b b } = .next (finish .none (hwSend b s)) := if_pos hr
  exact (continueFg_at henv _).trans ((runFg_goes hw1a rfl henv hu rfl).trans (runFg_of_idle hw1b rfl))

/-- An unbuffered port behind a busy transmitter (R193). -/
theorem continueFg_w1a_waits (hb : s.hw.txEmpty = false) :
    continueFg { s with fg := .w1a b } = .next { s with fg := .w1a b } := by
  have hw1a : fgStep { s with fg := .w1a b } = .next { s with fg := .w1a b } := by simp [fgStep, hb]
  exact (continueFg_at henv _).trans (runFg_pauses hw1a rfl henv hu (by simp [State.awaits, hb]))

end

/-- Settles O35: a free slot, a full ring that is drained, an unbuffered port, and the two loops. -/
theorem spWrite : Obligations.SpWrite := by
  unfold Obligations.SpWrite
  intro b s h push pop
  have henv := h.quiet
  have hu := h.undisturbed
  have hbuffered : s.cfg.nTx ≠ 0 → exec (.spWrite b) s = continueFg { s with fg := .w2 b } := fun hn => by
    rw [exec_spWrite h.ready, if_neg hn]
  have hunbuffered : s.cfg.nTx = 0 → exec (.spWrite b) s = continueFg { s with fg := .w1a b } := fun hn => by
    rw [exec_spWrite h.ready, if_pos hn]
  have hissue : Undisturbed { s with issue := [] } := hu
  refine ⟨fun hn hfree => ?_, fun hn hfull hr => ?_, fun hn hr => ?_, fun hn hfull hb => ⟨?_, ?_, ?_⟩,
    fun hn hb => ⟨?_, ?_⟩⟩
  · have hrun := runFg_w2_free henv hu b 30 (Nat.ne_of_lt hfree)
    rw [ringPush_free b (Nat.ne_of_lt hfree)] at hrun
    exact (hbuffered hn).trans ((continueFg_at henv _).trans hrun)
  · have hc : s.sp.tx.count ≠ 0 := hfull ▸ hn
    have hdrain := runFg_w2_drains henv hu b 30 hfull hc hr
    have hfree : (drainOne s).sp.tx.count ≠ (drainOne s).cfg.nTx := by
      rw [drainOne_ready hc hr]
      dsimp only
      omega
    have hrun := runFg_w2_free ((drainOne_env s).trans henv) hu.drainOne b 28 hfree
    rw [ringPush_free b hfree] at hrun
    rw [drainOne_ready hc hr] at hdrain hrun
    exact (hbuffered hn).trans ((continueFg_at henv _).trans (hdrain.trans hrun))
  · exact (hunbuffered hn).trans (continueFg_w1a_ready henv hu b hr)
  · exact (hbuffered hn).trans (continueFg_w2_waits henv hu b hfull hb)
  · exact (h.step_at rfl).trans (continueFg_w3_waits (s := { s with issue := [] }) henv hissue b hfull hb)
  · exact (h.step_at rfl).trans (continueFg_w2_waits (s := { s with issue := [] }) henv hissue b hfull hb)
  · exact (hunbuffered hn).trans (continueFg_w1a_waits henv hu b hb)
  · exact (h.step_at rfl).trans (continueFg_w1a_waits (s := { s with issue := [] }) henv hissue b hb)

/-! ### SP.FLUSH -/

/-- R281: `SP.FLUSH` where it may be issued. -/
theorem exec_spFlush {s : State} (h : Ready s) : exec .spFlush s = continueFg { s with fg := .f1 } :=
  inForeground_idle _ h.1 h.2

theorem fgStep_f1_empty {s : State} (hc : s.sp.tx.count = 0) :
    fgStep { s with fg := .f1 } = .next (finish .none s) := by
  simp [fgStep, Ring.isEmpty, hc, finish]

theorem fgStep_f1_nonempty {s : State} (hc : s.sp.tx.count ≠ 0) :
    fgStep { s with fg := .f1 } = .next { s with fg := .f2 } := by
  simp [fgStep, Ring.isEmpty, hc]

theorem fgStep_f2 (s : State) : fgStep { s with fg := .f2 } = .next { drainOne s with fg := .f1 } := by
  simp only [fgStep]
  rw [drainOne_blind.place s]

theorem continueFg_f1_empty {s : State} (hc : s.sp.tx.count = 0) :
    continueFg { s with fg := .f1 } = .next (finish .none s) :=
  runFg_of_idle (fgStep_f1_empty hc) rfl

/-- `s` when its ring has sent its oldest byte and the transmitter is ready again, with `env` of the schedule left. -/
def State.flushed (s : State) (env : List (List Move)) : State :=
  { s with
    sp := { s.sp with tx := { s.sp.tx with head := (s.sp.tx.head + 1) % s.cfg.nTx, count := s.sp.tx.count - 1 } }
    lineOut := s.lineOut ++ [s.sp.tx.front]
    env := env }

/-- F1 with a quiet gap after it (R183). -/
theorem continueFg_f1_gap {s : State} {rest : List (List Move)} (hu : Undisturbed s) (hc : s.sp.tx.count ≠ 0)
    (henv : s.env = [] :: rest) : continueFg { s with fg := .f1 } = continueFg { s with fg := .f2, env := rest } := by
  have hquiet : Undisturbed { s with fg := Fg.f2, env := rest } := hu
  have hgap : gap [] { s with fg := .f2, env := rest } = { s with fg := .f2, env := rest } := hquiet.serveAll_eq_self
  have hrun := continueFg_gap (t := { s with fg := .f2 }) (fgStep_f1_nonempty hc) rfl henv henv (congrArg State.env hgap)
  exact hrun.trans (congrArg continueFg hgap)

/-- F2 with a gap after it in which the transmitter becomes ready again (R183, R186). -/
theorem continueFg_f2_gap {s : State} {rest : List (List Move)} (hu : Undisturbed s) (hr : s.hw.txEmpty = true)
    (hc : s.sp.tx.count ≠ 0) (henv : s.env = [.event .txDone] :: rest) :
    continueFg { s with fg := .f2 } = continueFg { s.flushed rest with fg := .f1 } := by
  have hquiet : Undisturbed { s.flushed rest with fg := Fg.f1 } := hu
  have hmoves : applyMoves [.event .txDone] { drainOne s with fg := .f1, env := rest } =
      { s.flushed rest with fg := .f1 } := by
    rw [drainOne_ready hc hr]
    simp [applyMoves, applyMove, envStep, EnvEvent.enabled, EnvEvent.apply, State.flushed, ← hr]
  have hgap : gap [.event .txDone] { drainOne s with fg := .f1, env := rest } = { s.flushed rest with fg := .f1 } := by
    rw [gap, hmoves, hquiet.serveAll_eq_self]
  have hrun := continueFg_gap (t := { drainOne s with fg := .f1 }) (fgStep_f2 s) rfl henv ((drainOne_env s).trans henv)
    (congrArg State.env hgap)
  exact hrun.trans (congrArg continueFg hgap)

/-- R183, R186: as many rounds as the ring holds bytes send it in order. -/
theorem continueFg_f1_flushes (c : Nat) {s : State} {rest : List (List Move)} (hu : Undisturbed s)
    (hr : s.hw.txEmpty = true) (hring : RingOk s.cfg.nTx s.sp.tx) (hc : s.sp.tx.count = c)
    (henv : s.env = (List.replicate c [[], [.event .txDone]]).flatten ++ rest) :
    ∃ R, RingOk s.cfg.nTx R ∧ R.count = 0 ∧ continueFg { s with fg := .f1 } = .next (finish .none
      { s with sp := { s.sp with tx := R }, lineOut := s.lineOut ++ s.sp.tx.q s.cfg.nTx, env := rest }) := by
  induction c generalizing s with
  | zero =>
    have hq : s.sp.tx.q s.cfg.nTx = [] := by rw [← List.length_eq_zero_iff, Ring.length_q, hc]
    have hrest : s.env = rest := henv
    refine ⟨s.sp.tx, hring, hc, (continueFg_f1_empty hc).trans ?_⟩
    rw [hq, List.append_nil, ← hrest]
  | succ c ih =>
    have hne : s.sp.tx.count ≠ 0 := by omega
    have hround := (continueFg_f1_gap hu hne henv).trans
      (continueFg_f2_gap (s := { s with env := _ }) hu hr hne rfl)
    obtain ⟨R, hR, hempty, hrun⟩ :=
      ih (s := s.flushed _) hu hr (hring.pop hne) (by simp [State.flushed, hc]) rfl
    refine ⟨R, hR, hempty, hround.trans (hrun.trans ?_)⟩
    rw [hring.q_pop hne]
    simp [State.flushed]

section
variable {s : State} (henv : s.env = []) (hu : Undisturbed s) (hc : s.sp.tx.count ≠ 0) (hb : s.hw.txEmpty = false)
include henv hu hc hb

/-- A ring behind a busy transmitter (R193). -/
theorem continueFg_f1_waits : continueFg { s with fg := .f1 } = .next { s with fg := .f2 } :=
  (continueFg_at henv _).trans
    (runFg_pauses (fgStep_f1_nonempty hc) rfl henv hu (by simp [State.awaits, Ring.isEmpty, hc, hb]))

theorem continueFg_f2_waits : continueFg { s with fg := .f2 } = .next { s with fg := .f1 } := by
  have hf2 : fgStep { s with fg := .f2 } = .next { s with fg := .f1 } := by
    rw [fgStep_f2, drainOne_eq_self (.inr hb)]
  exact (continueFg_at henv _).trans
    (runFg_pauses hf2 rfl henv hu (by simp [State.awaits, Ring.isEmpty, hc, hb]))

end

/-- Settles O36: by induction on the bytes in the ring; and the loop behind a busy transmitter. -/
theorem spFlush : Obligations.SpFlush := by
  unfold Obligations.SpFlush
  intro s h
  refine ⟨fun hc => ?_, fun rest hu hr hring hc henv => ?_, fun henv hu hc hb => ⟨?_, ?_, ?_⟩⟩
  · exact (exec_spFlush h).trans (continueFg_f1_empty hc)
  · obtain ⟨R, hR, hempty, hrun⟩ := continueFg_f1_flushes s.sp.tx.count hu hr hring rfl henv
    exact ⟨R, hR, hempty, (exec_spFlush h).trans hrun⟩
  · exact (exec_spFlush h).trans (continueFg_f1_waits henv hu hc hb)
  · exact (Alone.step_at ⟨h, henv, hu⟩ rfl).trans (continueFg_f2_waits (s := { s with issue := [] }) henv hu hc hb)
  · exact (Alone.step_at ⟨h, henv, hu⟩ rfl).trans (continueFg_f1_waits (s := { s with issue := [] }) henv hu hc hb)

end Sys2Proof.Machine
end

section
/-! SUPPORT. RoundRobinADC (R211 to R215): the shared operations case by case, each operation where it may be issued,
and the obligations about them. -/

namespace Sys2Proof.Machine

/-! ### The scanner's shared operations -/

/-- R212: a completed conversion is stored and reported. -/
theorem adcPoll_of_ready {s : State} (h : s.sampleReady = true) : adcPoll s = (storeSample s, true) := if_pos h

theorem adcPoll_of_not_ready {s : State} (h : s.sampleReady = false) : adcPoll s = (s, false) :=
  if_neg (by simp [h])

theorem sampleReady_eq_false_iff (s : State) :
    s.sampleReady = false ↔ s.adc.inProgress = false ∨ s.hw.adcReady = false :=
  Bool.and_eq_false_iff

/-- R212: the report takes the flag, so that there is nothing more to report, whatever the hardware shows. -/
theorem sampleReady_storeSample (s : State) : (storeSample s).sampleReady = false := rfl

theorem startConversion_inFlight {s : State} (h : s.adc.inProgress = true) :
    startConversion s = .refused .conversionInFlight := if_pos h

theorem startNextConversion_inFlight {s : State} (h : s.adc.inProgress = true) :
    startNextConversion s = .refused .conversionInFlight := if_pos h

theorem startConversion_idle {s : State} {c : Channel} (h : s.adc.inProgress = false)
    (hc : s.cfg.channels[s.adc.cur]? = some c) : startConversion s = .next (beginConversion c.ch s) := by
  simp [startConversion, h, hc]

/-- R214: an advance is a start at the next index. -/
theorem startNextConversion_idle {s : State} {c : Channel} {k : Nat} (h : s.adc.inProgress = false)
    (hk : (s.adc.cur + 1) % s.cfg.channels.length = k) (hc : s.cfg.channels[k]? = some c) :
    startNextConversion s = .next (beginConversion c.ch { s with adc := { s.adc with cur := k } }) := by
  subst hk
  have hstart : startNextConversion s = startConversion { s with
      adc := { s.adc with cur := (s.adc.cur + 1) % s.cfg.channels.length } } := if_neg (by simp [h])
  exact hstart.trans (startConversion_idle h hc)

theorem sampleOf_valid {s : State} {i v : Nat} (hvalid : s.adc.valid[i]? = some true)
    (hlatest : s.adc.latest[i]? = some v) : sampleOf i s = .next (finish (.sample v) s) := by
  simp [sampleOf, hvalid, hlatest]

/-- U5: no conversion of this channel has completed. -/
theorem sampleOf_invalid {s : State} {i v : Nat} (hvalid : s.adc.valid[i]? = some false)
    (hlatest : s.adc.latest[i]? = some v) : sampleOf i s = .fault .adcValueBeforeCompletion := by
  simp [sampleOf, hvalid, hlatest]

/-! ### The operations where they may be issued (R281) -/

section
variable {s : State} (h : Ready s)
include h

theorem exec_adcProcess : exec .adcProcess s = .next (finish (.bool (adcPoll s).2) (adcPoll s).1) :=
  inForeground_idle _ h.1 h.2

theorem exec_adcStart : exec .adcStart s = withResult .none (startConversion s) := inForeground_idle _ h.1 h.2

theorem exec_adcNext : exec .adcNext s = withResult .none (startNextConversion s) := inForeground_idle _ h.1 h.2

theorem exec_adcValueOf (i : Nat) : exec (.adcValueOf i) s = sampleOf i s := inForeground_idle _ h.1 h.2

theorem exec_adcValue : exec .adcValue s = sampleOf s.adc.cur s := inForeground_idle _ h.1 h.2

theorem exec_adcProcess_ready (hr : s.sampleReady = true) :
    exec .adcProcess s = .next (finish (.bool true) (storeSample s)) := by
  rw [exec_adcProcess h, adcPoll_of_ready hr]

theorem exec_adcProcess_not_ready (hr : s.sampleReady = false) :
    exec .adcProcess s = .next (finish (.bool false) s) := by
  rw [exec_adcProcess h, adcPoll_of_not_ready hr]

end

/-! ### The obligations -/

/-- Settles O42: the call that reports leaves a ready state with nothing to report. -/
theorem adcProcess : Obligations.AdcProcess := by
  unfold Obligations.AdcProcess
  intro s u
  refine ⟨rfl, fun h hp hr => ?_, fun h hnone => ?_⟩
  · have hready : s.sampleReady = true := Bool.and_eq_true_iff.2 ⟨hp, hr⟩
    have hagain : Ready (finish (.bool true) u) := ⟨h.1, rfl⟩
    exact ⟨exec_adcProcess_ready h hready, exec_adcProcess_not_ready hagain (sampleReady_storeSample s)⟩
  · exact exec_adcProcess_not_ready h ((sampleReady_eq_false_iff s).2 hnone)

/-- Settles O43: the index after the last is 0, as R214's remainder says. -/
theorem adcStartNext : Obligations.AdcStartNext := by
  unfold Obligations.AdcStartNext
  intro c s h
  refine ⟨fun hp hc => ?_, fun k hk hcur hp hc => ?_, fun hp => ⟨?_, ?_⟩⟩
  · rw [exec_adcStart h, startConversion_idle hp hc]
    rfl
  · have hwrap : (s.adc.cur + 1) % s.cfg.channels.length = k := by
      rw [hk]
      split
      case isTrue hlast => rw [hlast, Nat.mod_self]
      case isFalse hlast => exact Nat.mod_eq_of_lt (by omega)
    rw [exec_adcNext h, startNextConversion_idle hp hwrap hc]
    rfl
  · rw [exec_adcStart h, startConversion_inFlight hp]
    rfl
  · rw [exec_adcNext h, startNextConversion_inFlight hp]
    rfl

/-- Settles O44: both reads answer from the channel's latest value and its mark that one has completed. -/
theorem adcValues : Obligations.AdcValues := by
  unfold Obligations.AdcValues
  intro i v s h hlatest
  refine ⟨fun hvalid => ?_, fun hvalid hcur => ?_, fun hvalid => ?_, fun hvalid hcur => ?_⟩
  · rw [exec_adcValueOf h, sampleOf_valid hvalid hlatest]
  · rw [exec_adcValue h, hcur, sampleOf_valid hvalid hlatest]
  · rw [exec_adcValueOf h, sampleOf_invalid hvalid hlatest]
  · rw [exec_adcValue h, hcur, sampleOf_invalid hvalid hlatest]

end Sys2Proof.Machine
end

section
/-! SUPPORT. CommandFramer (R227 to R232): each operation where it may be issued, the part of `CF.PUSH_DATA` with the value
of its clock reading, and a second byte a number of ticks after the marker. -/

namespace Sys2Proof.Machine

/-! ### A byte that may be a payload -/

section
variable {v : Nat} {b : Byte} {s : State}

/-- R227: a late byte is discarded, and the condition occurs. -/
theorem takePayload_late (h : elapsed s.cfg v s.cf.deadline.base s.cfg.payloadTimeout = true) :
    takePayload v b s = finish (.event .bad) (raise .payloadTimeout { s with cf := { s.cf with st := .idle } }) :=
  if_pos h

/-- R227: a byte in time is stored as the payload. -/
theorem takePayload_inTime (h : elapsed s.cfg v s.cf.deadline.base s.cfg.payloadTimeout = false) :
    takePayload v b s = finish (.event .extReady) { s with cf := { s.cf with st := .idle, payload := b, ready := true } } :=
  if_neg (by simp [h])

end

/-! ### The operations where they may be issued (R281) -/

section
variable {s : State} (h : Ready s)
include h

theorem exec_cfPushData_command {b : Byte} (hst : s.cf.st = .idle) (hb : b ≠ s.cfg.extMarker) :
    exec (.cfPushData b) s = .next (finish (.event (.cmd b)) s) := by
  simp [exec, execCfPushData, inForeground_idle _ h.1 h.2, hst, hb]

theorem exec_cfPushData_marker (hst : s.cf.st = .idle) :
    exec (.cfPushData s.cfg.extMarker) s = startNow .cfArm s := by
  simp [exec, execCfPushData, inForeground_idle _ h.1 h.2, hst]

theorem exec_cfPushData_awaiting (b : Byte) (hst : s.cf.st = .awaitingPayload) :
    exec (.cfPushData b) s = startNow (.cfPayload b) s := by
  simp [exec, execCfPushData, inForeground_idle _ h.1 h.2, hst]

theorem exec_cfPayload_ready (hr : s.cf.ready = true) :
    exec (.cfPayload 0) s = .next (finish (.byte s.cf.payload) s) := by
  simp [exec, execCfPayload, inForeground_idle _ h.1 h.2, hr]

/-- U4: no `ExtReady` has stored a payload. -/
theorem exec_cfPayload_unset (hr : s.cf.ready = false) : exec (.cfPayload 0) s = .fault .payloadUnset := by
  simp [exec, execCfPayload, inForeground_idle _ h.1 h.2, hr]

end

/-- Settles O47: the bit that an `ExtReady` sets decides. -/
theorem cfPayload : Obligations.CfPayload := by
  unfold Obligations.CfPayload
  exact fun s h => ⟨exec_cfPayload_ready h, exec_cfPayload_unset h⟩

/-! ### With the value of the clock reading -/

section
variable {s t : State} {v : Nat} (h : ReadsClock s v t)
include h

theorem ReadsClock.cf : t.cf = s.cf := by
  obtain ⟨env, hshow⟩ := h.returned
  rw [← hshow]
  rfl

/-- R227: the marker arms the payload deadline. -/
theorem ReadsClock.exec_cfPushData_marker (hst : s.cf.st = .idle) :
    exec (.cfPushData s.cfg.extMarker) s = .next (finish (.event .pending) (armFramer v t)) := by
  rw [Machine.exec_cfPushData_marker h.ready hst, h.startNow rfl]
  rfl

/-- R227: the byte after the marker is taken or discarded. -/
theorem ReadsClock.exec_cfPushData_awaiting (b : Byte) (hst : s.cf.st = .awaitingPayload) :
    exec (.cfPushData b) s = .next (takePayload v b t) := by
  rw [Machine.exec_cfPushData_awaiting h.ready b hst, h.startNow rfl]
  rfl

theorem ReadsClock.armFramer_eq : armFramer v t = { t with cf := (armFramer v s).cf } := by
  simp [armFramer, h.cf]

/-- The framer's deadline is tested as it stood when the operation was issued. -/
theorem ReadsClock.elapsed_framer :
    elapsed t.cfg v t.cf.deadline.base t.cfg.payloadTimeout =
      elapsed s.cfg v s.cf.deadline.base s.cfg.payloadTimeout := by
  rw [h.cf, h.cfg]

theorem ReadsClock.exec_cfPushData_late (b : Byte) (hst : s.cf.st = .awaitingPayload)
    (hlate : elapsed s.cfg v s.cf.deadline.base s.cfg.payloadTimeout = true) :
    exec (.cfPushData b) s =
      .next (finish (.event .bad) (raise .payloadTimeout { t with cf := { s.cf with st := .idle } })) := by
  rw [h.exec_cfPushData_awaiting b hst, takePayload_late (h.elapsed_framer.trans hlate), h.cf]

theorem ReadsClock.exec_cfPushData_inTime (b : Byte) (hst : s.cf.st = .awaitingPayload)
    (hlate : elapsed s.cfg v s.cf.deadline.base s.cfg.payloadTimeout = false) :
    exec (.cfPushData b) s =
      .next (finish (.event .extReady) { t with cf := { s.cf with st := .idle, payload := b, ready := true } }) := by
  rw [h.exec_cfPushData_awaiting b hst, takePayload_inTime (h.elapsed_framer.trans hlate), h.cf]

end

/-- Settles O45: the cases of R227; the schedule of one reading is a case of the two that read the clock. -/
theorem cfPushData : Obligations.CfPushData := by
  unfold Obligations.CfPushData
  intro b s armed late
  have hmarker {v : Nat} {t : State} (hst : s.cf.st = .idle) (hb : b = s.cfg.extMarker) (h : ReadsClock s v t) :
      exec (.cfPushData b) s = .next (finish (.event .pending) { t with cf := armed v }) := by
    rw [hb, h.exec_cfPushData_marker hst, h.armFramer_eq]
    rfl
  refine ⟨rfl, fun h hst hb => exec_cfPushData_command h hst hb, fun v t hst hb h => hmarker hst hb h,
    fun v t hst hlate h => h.exec_cfPushData_late b hst hlate,
    fun v t hst hlate h => h.exec_cfPushData_inTime b hst hlate, fun n m rest h hreads => ?_⟩
  intro v
  cases hst : s.cf.st with
  | idle =>
    have hb : b = s.cfg.extMarker := hreads.resolve_left (by simp [hst])
    have hrun := hmarker hst hb h.readsClock
    exact hrun
  | awaitingPayload =>
    cases hlate : late v with
    | true => exact h.readsClock.exec_cfPushData_late b hst hlate
    | false => exact h.readsClock.exec_cfPushData_inTime b hst hlate

/-! ### A second byte after the marker -/

/-- R96: ticks that do not wrap the counter are added to the clock value. -/
theorem wideTime_add (P : Params) (tally cnt k : Nat) : wideTime P tally (cnt + k) = wideTime P tally cnt + k :=
  (Nat.add_assoc _ cnt k).symm

/-- R150: `k` ticks after its base, less than a period, a deadline answers by `k`. -/
theorem elapsed_add {P : Params} {k : Nat} (hk : k < 2 ^ P.wTime) (base duration : Nat) :
    elapsed P (base + k) base duration = decide (duration < k) := by
  have hmod : elapsed P (base + k) base duration = elapsed P (addMod P.wTime base k) base duration := by
    rw [elapsed, elapsed, subMod, subMod, addMod, Nat.mod_add_mod]
  rw [hmod, elapsed_addMod, Nat.mod_eq_of_lt hk]

/-- The ticks of one reading are fewer than a period of the clock (R6, R137). -/
theorem Reading.ticks_lt {n m : Nat} {rest : List (List Move)} {s : State} (h : Reading n m rest s) :
    n + m < 2 ^ s.cfg.wTime := by
  have hwrap := h.no_wrap
  have hperiod : 2 ^ s.cfg.wCnt ≤ 2 ^ s.cfg.wTime := Nat.pow_le_pow_right Nat.two_pos (Nat.le_add_left ..)
  omega

/-- R230: a deadline armed at the clock value where the reading begins has elapsed by the ticks of that reading. -/
theorem Reading.elapsed_ticks {n m : Nat} {rest : List (List Move)} {s : State} (h : Reading n m rest s)
    {base : Nat} (hbase : base = s.clock) (duration : Nat) :
    elapsed s.cfg (wideTime s.cfg s.clk.tally (s.hw.cnt + (n + m))) base duration = decide (duration < n + m) := by
  rw [wideTime_add, hbase]
  exact elapsed_add h.ticks_lt s.clock duration

/-- R230: the byte after a marker whose clock sample is now is in time up to the timeout. -/
theorem Reading.cfPushData_inTime {p q : Nat} {rest : List (List Move)} {s : State} (h : Reading p q rest s) (b : Byte)
    (hst : s.cf.st = .awaitingPayload) (hbase : s.cf.deadline.base = s.clock) (hk : p + q ≤ s.cfg.payloadTimeout) :
    exec (.cfPushData b) s = .next (finish (.event .extReady)
      { s.later (p + q) rest with cf := { s.cf with st := .idle, payload := b, ready := true } }) :=
  h.readsClock.exec_cfPushData_inTime b hst ((h.elapsed_ticks hbase _).trans (decide_eq_false hk.not_gt))

/-- R230: after the timeout it is late. -/
theorem Reading.cfPushData_late {p q : Nat} {rest : List (List Move)} {s : State} (h : Reading p q rest s) (b : Byte)
    (hst : s.cf.st = .awaitingPayload) (hbase : s.cf.deadline.base = s.clock) (hk : s.cfg.payloadTimeout < p + q) :
    exec (.cfPushData b) s = .next (finish (.event .bad)
      (raise .payloadTimeout { s.later (p + q) rest with cf := { s.cf with st := .idle } })) :=
  h.readsClock.exec_cfPushData_late b hst ((h.elapsed_ticks hbase _).trans (decide_eq_true hk))

/-- Settles O46: the marker arms the deadline at the clock value of the state it leaves, and the ticks of the second reading
are compared with the timeout. -/
theorem cfBoundary : Obligations.CfBoundary := by
  unfold Obligations.CfBoundary
  intro b n m p q rest next s t hst h e hsecond _
  rw [h.readsClock.exec_cfPushData_marker hst] at e
  cases e
  refine ⟨rfl, ?_⟩
  obtain hin | hlate := le_or_gt (p + q) s.cfg.payloadTimeout
  · refine ⟨_, hsecond.cfPushData_inTime b rfl rfl hin, rfl, rfl, fun _ => ⟨rfl, rfl, ?_⟩, fun hk => by omega⟩
    exact exec_cfPayload_ready ⟨hsecond.ready.1, rfl⟩ rfl
  · exact ⟨_, hsecond.cfPushData_late b rfl rfl hlate, rfl, rfl, fun hk => by omega, fun _ => ⟨rfl, rfl⟩⟩

end Sys2Proof.Machine
end

section
/-! SUPPORT. The blink signaller (R241 to R243): a clock reading that does not see the blinker, `BL.SIGNAL` with the gap
after its first writes, and the phase change of `BL.PROCESS` at the value read. -/

namespace Sys2Proof.Machine

/-! ### A clock reading does not see the blinker -/

/-- The same state with the blinker `b`. -/
def State.withBlinker (s : State) (b : Blinker) : State := { s with bl := b }

@[simp] theorem State.withBlinker_fg (s : State) (b : Blinker) : (s.withBlinker b).fg = s.fg := rfl
@[simp] theorem State.withBlinker_awaits (s : State) (b : Blinker) : (s.withBlinker b).awaits = s.awaits := rfl

/-- What is blind to the foreground does not see the blinker. -/
theorem ForegroundBlind.withBlinker {f : State → State} (hf : ForegroundBlind f) (s : State) (b : Blinker) :
    f (s.withBlinker b) = (f s).withBlinker b := by
  have hsame : (f s).withForeground s = f s := hf.shows rfl
  calc f (s.withBlinker b) = ((f s).withForeground s).withBlinker b := hf s (s.withBlinker b)
    _ = (f s).withBlinker b := by rw [hsame]

/-- R10, R268: a gap without a reset neither reads nor writes what only the foreground touches. -/
theorem gap_blind {g : List Move} (hr : Move.reset ∉ g) : ForegroundBlind (gap g) := fun s u => by
  have hmoves : applyMoves g (s.withForeground u) = (applyMoves g s).withForeground u := by
    unfold applyMoves
    induction g generalizing s with
    | nil => rfl
    | cons m g ih =>
      obtain ⟨hm, hg⟩ : Move.reset ≠ m ∧ Move.reset ∉ g := by simpa using hr
      have hmove : applyMove (s.withForeground u) m = (applyMove s m).withForeground u := by
        cases m with
        | event e => exact envStep_blind e s u
        | irq => exact serve_blind s u
        | reset => exact absurd rfl hm
      rw [List.foldl_cons, List.foldl_cons, hmove, ih hg]
  rw [gap, hmoves, serveAll_blind, gap]

/-- `u'` is inside the same `CLK.NOW` as `u`, with the blinker `b`; or a reset has abandoned the one of `u`. -/
def ReadsBeside (b : Blinker) (u u' : State) : Prop :=
  (∃ ph, u.fg = .now ph .clkNow) ∧ u' = u.withBlinker b ∨ Abandoned u

theorem ForegroundBlind.readsBeside {f : State → State} (hf : ForegroundBlind f) {b : Blinker} {u u' : State}
    (h : ReadsBeside b u u') : ReadsBeside b (f u) (f u') := by
  have hsame : (f u).withForeground u = f u := hf.shows rfl
  obtain ⟨hread, rfl⟩ | habandoned := h
  · exact .inl ⟨by rw [← hsame]; exact hread, hf.withBlinker u b⟩
  · exact .inr (by rw [← hsame]; exact habandoned)

theorem gap_readsBeside (g : List Move) {b : Blinker} {u u' : State} (h : ReadsBeside b u u') :
    ReadsBeside b (gap g u) (gap g u') := by
  have hmoves : ReadsBeside b (applyMoves g u) (applyMoves g u') := by
    unfold applyMoves
    induction g generalizing u u' with
    | nil => exact h
    | cons m g ih =>
      refine ih ?_
      cases m with
      | event e => exact (envStep_blind e).readsBeside h
      | irq => exact serve_blind.readsBeside h
      | reset => exact .inr ⟨rfl, rfl⟩
  exact serveAll_blind.readsBeside hmoves

/-- R137: a labelled step of a `CLK.NOW` returns or goes on, whatever the blinker. -/
theorem fgStep_withBlinker {u : State} (h : ∃ ph, u.fg = .now ph .clkNow) (b : Blinker) :
    ∃ t, fgStep u = .next t ∧ fgStep (u.withBlinker b) = .next (t.withBlinker b) ∧
      (t.fg = .idle ∨ ∃ ph, t.fg = .now ph .clkNow) := by
  obtain ⟨ph, hfg⟩ := h
  simp only [fgStep, State.withBlinker_fg, hfg]
  unfold State.withBlinker
  cases ph with
  | n1 | n3 | n4 => exact ⟨_, rfl, rfl, .inr ⟨_, rfl⟩⟩
  | n2 c1 =>
    simp only [nowStep]
    split <;> exact ⟨_, rfl, rfl, .inr ⟨_, rfl⟩⟩
  | n2rest c1 o writes left =>
    simp only [nowStep, readTally]
    split
    · split <;> exact ⟨_, rfl, rfl, .inr ⟨_, rfl⟩⟩
    · exact ⟨_, rfl, rfl, .inr ⟨_, rfl⟩⟩
  | n5 o c2 => exact ⟨_, rfl, rfl, .inl rfl⟩

/-- The foreground does nothing more when a reset has abandoned its operation (R300). -/
theorem Abandoned.runFg_eq {u : State} (h : Abandoned u) (n : Nat) : runFg n u = .next u :=
  runFg_of_idle (by simp [fgStep, h.1]) h.1

/-- A labelled step with a gap of the schedule after it (R10). -/
theorem runFg_gap {n : Nat} {s t : State} {g : List Move} {gs : List (List Move)} (hstep : fgStep s = .next t)
    (hgo : t.fg.isIdle = false) (henv : t.env = g :: gs) : runFg (n + 1) s = runFg n (gap g { t with env := gs }) := by
  simp [runFg, hstep, hgo, henv]

/-- A `CLK.NOW` that returns does so beside any blinker, in the same state but for that. -/
theorem runFg_readsBeside {b : Blinker} {v : Nat} {t : State} (hresult : t.result = .time v)
    (n : Nat) {u u' : State} (h : ReadsBeside b u u') (e : runFg n u = .next t) :
    runFg n u' = .next (t.withBlinker b) := by
  induction n generalizing u u' with
  | zero =>
    obtain ⟨hread, rfl⟩ | habandoned := h
    · obtain ⟨t1, hstep, hstep', -⟩ := fgStep_withBlinker hread b
      cases hstep.symm.trans e
      exact hstep'
    · cases (habandoned.runFg_eq 0).symm.trans e
      cases habandoned.2.symm.trans hresult
  | succ n ih =>
    obtain ⟨hread, rfl⟩ | habandoned := h
    · obtain ⟨t1, hstep, hstep', hstop | ⟨ph, hgo⟩⟩ := fgStep_withBlinker hread b
      · cases (runFg_of_idle hstep hstop).symm.trans e
        exact runFg_of_idle hstep' hstop
      · have hbusy : t1.fg.isIdle = false := congrArg Fg.isIdle hgo
        cases henv : t1.env with
        | nil =>
          have hnext : ReadsBeside b (serveAll t1) (serveAll (t1.withBlinker b)) :=
            serveAll_blind.readsBeside (.inl ⟨⟨ph, hgo⟩, rfl⟩)
          have hserved : serveAll (t1.withBlinker b) = (serveAll t1).withBlinker b := serveAll_blind.withBlinker t1 b
          rw [hserved] at hnext
          rw [runFg_serve hstep hbusy henv] at e
          rw [runFg_serve hstep' hbusy henv, hserved, State.withBlinker_awaits]
          split at e
          · next hwaits =>
            cases e
            exact if_pos hwaits
          · next hwaits =>
            rw [if_neg hwaits]
            exact ih hnext e
        | cons g gs =>
          have hnext : ReadsBeside b { t1 with env := gs } { t1.withBlinker b with env := gs } :=
            .inl ⟨⟨ph, hgo⟩, rfl⟩
          rw [runFg_gap hstep hbusy henv] at e
          rw [runFg_gap hstep' hbusy henv]
          exact ih (gap_readsBeside g hnext) e
    · cases (habandoned.runFg_eq (n + 1)).symm.trans e
      cases habandoned.2.symm.trans hresult

/-- R137: the blinker has no part in a clock reading. -/
theorem ReadsClock.withBlinker {s t : State} {v : Nat} (h : ReadsClock s v t) (b : Blinker) :
    ReadsClock (s.withBlinker b) v (t.withBlinker b) := by
  have hready : Ready s := h.ready
  have hready' : Ready (s.withBlinker b) := hready
  obtain ⟨e, hidle, hresult⟩ := h
  rw [exec_clkNow hready] at e
  refine ⟨?_, hidle, hresult⟩
  rw [exec_clkNow hready']
  exact runFg_readsBeside (u := { s with fg := .now .n1 .clkNow }) hresult _ (.inl ⟨⟨.n1, rfl⟩, rfl⟩) e

/-! ### `BL.SIGNAL` -/

/-- R241: `BL.SIGNAL` where it may be issued. -/
theorem exec_blSignal {s : State} (h : Ready s) (count on off : Nat) :
    exec (.blSignal count on off) s = startAt (.blArm count on off) s :=
  inForeground_idle _ h.1 h.2

/-- The blinker that the first writes of `BL.SIGNAL` leave (R241). -/
def Blinker.armed (B : Blinker) (count on off : Nat) : Blinker :=
  { B with remaining := count, onDur := on, offDur := off, active := true, out := .high }

theorem armBlink_eq (count on off : Nat) (s : State) :
    armBlink count on off s = s.withBlinker (s.bl.armed count on off) := rfl

/-- R241: after its first writes and their gap, `BL.SIGNAL` reads the clock (log 30). -/
theorem exec_blSignal_gap {s : State} (h : Ready s) {g : List Move} {gs : List (List Move)} (henv : s.env = g :: gs)
    (hr : Move.reset ∉ g) (count on off : Nat) : exec (.blSignal count on off) s =
      startNow .blSignal ((gap g { s with env := gs }).withBlinker (s.bl.armed count on off)) := by
  have hblind := gap_blind hr
  have hshow : (gap g { s with env := gs }).withForeground { s with env := gs } = gap g { s with env := gs } :=
    hblind.shows rfl
  have hgap : gap g { armBlink count on off s with fg := .now .n1 .blSignal, env := gs } =
      { (gap g { s with env := gs }).withBlinker (s.bl.armed count on off) with fg := .now .n1 .blSignal } := by
    rw [← hshow, armBlink_eq]
    exact hblind { s with env := gs }
      { s.withBlinker (s.bl.armed count on off) with fg := .now .n1 .blSignal, env := gs }
  have hgapEnv : (gap g { armBlink count on off s with fg := .now .n1 .blSignal, env := gs }).env = gs := by
    rw [hgap, ← hshow]
    rfl
  rw [exec_blSignal h]
  exact (continueFg_gap (s := { s with fg := .blArm count on off }) rfl rfl henv henv hgapEnv).trans
    (congrArg continueFg hgap)

/-- R241: with the value of the clock reading that follows the gap, all six fields are written. -/
theorem exec_blSignal_reads {s u t : State} {v : Nat} (h : Ready s) {g : List Move} {gs : List (List Move)}
    (henv : s.env = g :: gs) (hr : Move.reset ∉ g) (hgap : gap g { s with env := gs } = u) (hread : ReadsClock u v t)
    (count on off : Nat) : exec (.blSignal count on off) s = .next (finish .none { t with
      bl := { remaining := count, onDur := on, offDur := off, active := true, phaseStart := v, out := .high } }) := by
  rw [exec_blSignal_gap h henv hr, hgap, (hread.withBlinker _).startNow rfl]
  rfl

/-- A `BL.SIGNAL` of `count` pulses before its first writes, or after them, with the sequence armed (R241). -/
structure Signalling (count on off : Nat) (u : State) : Prop where
  noReset : NoReset u.env
  noHandler : u.cpu.handler = none
  place : u.fg = .blArm count on off ∨
    (u.fg = .idle ∨ ∃ ph, u.fg = .now ph .blSignal) ∧ u.bl.remaining = count ∧ u.bl.out = .high

theorem Signalling.step {count on off : Nat} {u t : State} (h : Signalling count on off u) (e : fgStep u = .next t) :
    Signalling count on off t := by
  obtain ⟨hr, hn, hfg | ⟨hfg | ⟨ph, hfg⟩, harmed⟩⟩ := h
  · simp only [fgStep, hfg] at e
    cases e
    exact ⟨hr, hn, .inr ⟨.inr ⟨.n1, rfl⟩, rfl, rfl⟩⟩
  · simp only [fgStep, hfg] at e
    cases e
    exact ⟨hr, hn, .inr ⟨.inl hfg, harmed⟩⟩
  · simp only [fgStep, hfg] at e
    obtain ⟨o, c2, rfl⟩ | ⟨ph', n, hstep⟩ := nowStep_cases ph u
    · cases e
      exact ⟨hr, hn, .inr ⟨.inl rfl, harmed⟩⟩
    · have hsame : u = { u with fg := u.fg } := rfl
      rw [hsame, hstep] at e
      cases e
      exact ⟨hr, hn, .inr ⟨.inr ⟨ph', rfl⟩, harmed⟩⟩

theorem Signalling.handler {count on off : Nat} {x : Handler} {u : State} (hc : chooseIrq u = some x)
    (h : Signalling count on off u) : Signalling count on off (runHandler x u) := by
  obtain ⟨hfg, henv⟩ := runHandler_place x u
  have hbl : (runHandler x u).bl = u.bl := (runHandler_spares (c := .blinker) x u).blinker rfl
  have hcpu : (runHandler x u).cpu = u.cpu := (runHandler_cpu x u).trans (cpu_of_chooseIrq hc).symm
  exact ⟨henv ▸ h.noReset, hcpu ▸ h.noHandler, by rw [hfg, hbl]; exact h.place⟩

/-- Without a reset `BL.SIGNAL` leaves the line high and the count as given (R241). -/
theorem exec_blSignal_armed {count on off : Nat} {s t : State} (hr : NoReset s.env)
    (e : exec (.blSignal count on off) s = .next t) (hidle : t.fg = .idle) :
    Ready t ∧ t.bl.remaining = count ∧ t.bl.out = .high := by
  obtain ⟨hn, -, e⟩ := inForeground_next e
  have hsignals : Signalling count on off t :=
    runFg_keeps (s := { s with fg := .blArm count on off }) (fun _ _ hu h => h.step hu)
      (fun _ _ _ hg h => { h with noReset := fun g' hm => h.noReset g' (hg ▸ List.mem_cons_of_mem _ hm) })
      (fun x _ _ h => by cases x <;> exact { h with }) (fun _ _ hc h => h.handler hc)
      (fun _ g _ hg hm h => absurd hm (h.noReset g (hg ▸ List.mem_cons_self))) _ ⟨hr, hn, .inl rfl⟩ e
  obtain ⟨-, hn, hplace⟩ := hsignals
  exact ⟨⟨hn, hidle⟩, (hplace.resolve_left (by simp [hidle])).2⟩

/-! ### `BL.PROCESS` -/

/-- R242: with no pulse left `BL.PROCESS` does nothing. -/
theorem exec_blProcess_over {s : State} (h : Ready s) (hzero : s.bl.remaining = 0) :
    exec .blProcess s = .next (finish .none s) :=
  (inForeground_idle _ h.1 h.2).trans (if_pos hzero)

/-- R242: while a sequence runs `BL.PROCESS` reads the clock. -/
theorem exec_blProcess_running {s : State} (h : Ready s) (hrun : s.bl.remaining ≠ 0) :
    exec .blProcess s = startNow .blProcess s :=
  (inForeground_idle _ h.1 h.2).trans (if_neg hrun)

/-- The blinker after the phase change of `BL.PROCESS` at clock value `v` (R242). -/
def Blinker.moved (P : Params) (v : Nat) (B : Blinker) : Blinker :=
  if B.active then
    if B.onDur < subMod P.wTime v B.phaseStart then
      { B with out := .low, active := false, phaseStart := v, remaining := B.remaining - 1 }
    else B
  else
    if B.offDur < subMod P.wTime v B.phaseStart then { B with out := .high, active := true, phaseStart := v }
    else B

/-- R242: the phase change writes the blinker alone. -/
theorem blinkAt_eq (v : Nat) (s : State) : blinkAt v s = { s with bl := s.bl.moved s.cfg v } := by
  simp only [blinkAt, Blinker.moved, elapsed, decide_eq_true_eq]
  split <;> split <;> rfl

theorem ReadsClock.bl {s t : State} {v : Nat} (h : ReadsClock s v t) : t.bl = s.bl := by
  obtain ⟨env, hshow⟩ := h.returned
  rw [← hshow]
  rfl

/-- R242: at most one transition, by the value read. -/
theorem ReadsClock.exec_blProcess {s t : State} {v : Nat} (h : ReadsClock s v t) (hrun : s.bl.remaining ≠ 0) :
    exec .blProcess s = .next (finish .none { t with bl := s.bl.moved s.cfg v }) := by
  rw [exec_blProcess_running h.ready hrun, h.startNow rfl, ← h.bl, ← h.cfg, ← blinkAt_eq]
  rfl

/-- R243: the transition after which no pulse is left is the end of an on-phase. -/
theorem blinkAt_last {v : Nat} {s : State} (hrun : s.bl.remaining ≠ 0) (hzero : (blinkAt v s).bl.remaining = 0) :
    (blinkAt v s).bl.out = .low ∧ (blinkAt v s).bl.active = false := by
  obtain e | ⟨-, e⟩ | ⟨-, e⟩ := blinkAt_cases v s <;> rw [e] at hzero ⊢
  · exact absurd hzero hrun
  · exact ⟨rfl, rfl⟩
  · exact absurd hzero hrun

/-- Without a reset, a `BL.PROCESS` that goes on has written nothing, and one that ends made its phase change. -/
theorem startNow_blProcess {s t : State} (hr : NoReset s.env) (e : startNow .blProcess s = .next t) :
    t.bl = s.bl ∨ ∃ u v, u.bl = s.bl ∧ t = finish .none (blinkAt v u) := by
  obtain ⟨u, eu, hrun⟩ := startNow_inside (k := .blProcess) rfl s
  have hbl : u.bl = s.bl :=
    ((ensures_iff _ _).1 (startAt_spares (c := .blinker) (l := .now .n1 .clkNow) hr rfl) u eu).blinker rfl
  obtain ⟨-, ek⟩ | ⟨v, -, ek⟩ := hrun <;> rw [ek] at e <;> cases e
  · exact .inl hbl
  · exact .inr ⟨u, v, hbl, rfl⟩

/-! ### The statements -/

/-- Settles O48: the writes before the clock reading, which does not see them, and the phase start after it. -/
theorem blSignal : Obligations.BlSignal := by
  unfold Obligations.BlSignal
  intro count on off s
  refine ⟨rfl, fun g gs v t h henv hr hread => exec_blSignal_reads h henv hr rfl hread count on off,
    fun n m rest r henv h => ?_, fun t hr e hidle => ?_⟩
  · have hgap : gap [] { s with env := r } = { s with env := r } := h.undisturbed.serveAll_eq_self
    have hready : Ready s := h.ready
    exact exec_blSignal_reads hready henv List.not_mem_nil hgap h.readsClock count on off
  · obtain ⟨hready, hzero, hhigh⟩ := exec_blSignal_armed hr e hidle
    exact ⟨hhigh, exec_blProcess_over hready hzero⟩

/-- Settles O49: its part with the value of the clock reading; only the end of an on-phase takes a pulse away. -/
theorem blProcess : Obligations.BlProcess := by
  unfold Obligations.BlProcess
  intro s
  refine ⟨exec_blProcess_over, fun v t hrun h => h.exec_blProcess hrun,
    fun n m rest hrun h => h.readsClock.exec_blProcess hrun, fun t hrun hr e _ hzero => ?_⟩
  obtain ⟨hn, hfg, -⟩ := inForeground_next e
  rw [exec_blProcess_running ⟨hn, hfg⟩ hrun] at e
  obtain hsame | ⟨u, v, hsame, rfl⟩ := startNow_blProcess hr e
  · rw [hsame] at hzero
    exact absurd hzero hrun
  · exact blinkAt_last (by rwa [hsame]) hzero

end Sys2Proof.Machine
end

section
/-! SUPPORT. Contexts and interrupt control (R273, R274, R281): which operations ask for the foreground alone, and which for a
handler. -/

namespace Sys2Proof.Machine

/-- R281: an operation of the foreground alone starts with the check that no handler runs. -/
theorem exec_foregroundOnly {i : Instr} (hi : foregroundOnly i = true) (s : State) : ∃ a, exec i s = inForeground s a := by
  cases i with
  | clkNow | dlNew | dlElapsed | dlRestart | dlCancel | swNew | swElapsedTime => exact ⟨_, rfl⟩
  | spInit | spEmpty | spTxEmpty | spTxReady | spRead | spWrite | spFlush | spProcessRx => exact ⟨_, rfl⟩
  | spProcessTx | spOverflow | spClearOverflow => exact ⟨_, rfl⟩
  | adcProcess | adcValue | adcStart | adcNext | adcValueOf => exact ⟨_, rfl⟩
  | cfPushData | cfPayload | blSignal | blProcess | pump | wait | cli | sei => exact ⟨_, rfl⟩
  | clkProcess | spIntrRx | spIntrTx => cases hi
  | rbPush | rbPop | rbTop | rbEmpty | rbFull | rbSize | btfCheck => cases hi
  | envTick | envRx | envTxDone | envAdcDone | envReset => cases hi

/-- R281: a handler's body starts with the check that its handler runs. -/
theorem exec_handlerOf {i : Instr} {x : Handler} (hi : handlerOf i = some x) (s : State) :
    ∃ a, exec i s = inHandler x s a := by
  have hbody : i = x.body := by cases i <;> cases hi <;> rfl
  subst hbody
  cases x <;> exact ⟨_, rfl⟩

/-- Settles O58: by the context check with which the operation starts. -/
theorem wrongContext : Obligations.WrongContext := by
  unfold Obligations.WrongContext
  intro i s
  refine ⟨fun hi hh => ?_, fun x hi hh => ?_⟩
  · obtain ⟨a, e⟩ := exec_foregroundOnly hi s
    rw [e, inForeground_handler a hh]
  · obtain ⟨a, e⟩ := exec_handlerOf hi s
    rw [e, inHandler, if_neg hh]

/-- Settles O52: where they may be issued, both are one write. -/
theorem interruptControl : Obligations.InterruptControl := by
  unfold Obligations.InterruptControl
  exact fun s h => ⟨inForeground_idle _ h.1 h.2, inForeground_idle _ h.1 h.2⟩

end Sys2Proof.Machine
end

section
/-! SUPPORT. Handlers between machine steps (R10, R266 to R270): the gap before an entry or a body, what the environment and
a masked gap leave of the requests, and what a step does with them. -/

namespace Sys2Proof.Machine

/-! ### Requests -/

/-- R46 to R51: an environment step makes no request false. -/
theorem envEvent_keeps_request (e : EnvEvent) {s : State} {x : Handler} (h : s.request x = true) :
    (e.apply s).request x = true := by
  cases e with
  | tick =>
    cases x with
    | tov => exact Bool.or_eq_true_iff.2 (.inl h)
    | rxc | dre => exact h
  | rx =>
    cases x with
    | rxc => exact Bool.and_eq_true_iff.2 ⟨(Bool.and_eq_true_iff.1 h).1, rfl⟩
    | tov | dre => exact h
  | txDone =>
    cases x with
    | dre => exact Bool.and_eq_true_iff.2 ⟨(Bool.and_eq_true_iff.1 h).1, rfl⟩
    | tov | rxc => exact h
  | adcDone => cases x <;> exact h

/-- What handlers alone write, between states with interrupts off, and their requests (R269). -/
structure Masked (s t : State) : Prop where
  clk : t.clk = s.clk
  sp : t.sp = s.sp
  lineOut : t.lineOut = s.lineOut
  cpu : t.cpu = s.cpu
  dreIe : t.hw.dreIe = s.hw.dreIe
  requests : ∀ x, s.request x = true → t.request x = true

theorem Masked.event {s t : State} (h : Masked s t) (e : EnvEvent) : Masked s (e.apply t) := by
  have hrequests : ∀ x, s.request x = true → (e.apply t).request x = true := fun x hx =>
    envEvent_keeps_request e (h.requests x hx)
  cases e <;> exact { h with requests := hrequests }

/-- R269: with interrupts off a gap without a reset runs no handler. -/
theorem gap_masked {g : List Move} {s : State} (hg : s.cpu.gie = false) (hr : Move.reset ∉ g) : Masked s (gap g s) := by
  refine gap_keeps (P := Masked s) (fun e u _ h => h.event e) (fun x u hc h => ?_) (fun hm => absurd hm hr)
    ⟨rfl, rfl, rfl, rfl, rfl, fun _ => id⟩
  obtain ⟨hon, -, -⟩ := chooseIrq_some hc
  rw [h.cpu, hg] at hon
  cases hon

/-- Settles O57: prompt service with interrupts on, and a gap with interrupts off. -/
theorem interruptService : Obligations.InterruptService := by
  unfold Obligations.InterruptService
  refine ⟨fun s hg hh => ?_, fun g s hg hr => ?_⟩
  · have hmay : s.mayTake = true := by simp [State.mayTake, Cpu.inIsr, hg, hh]
    have hcpu : s.cpu = { gie := true, handler := none } := by rw [← hg, ← hh]
    exact ⟨(serveAll_requests hmay).2, (serveAll_cpu s).trans hcpu, (serveAll_place s).1⟩
  · obtain ⟨hclk, hsp, hline, hcpu, hdre, hrequests⟩ := gap_masked hg hr
    exact ⟨hclk, hsp, hline, hcpu, hdre, hrequests⟩

/-! ### The gap before a handler's body -/

theorem outerGap_of_quiet {s : State} (h : s.env = [] ∨ s.env.head? = some []) : outerGap s = { s with env := s.env.tail } := by
  obtain ⟨henv, e⟩ | ⟨g, gs, henv, e⟩ := outerGap_cases s <;> rw [e, henv]
  · rw [List.tail_nil, ← henv]
  · obtain rfl : g = [] := by simpa [henv] using h
    rfl

theorem outerGap_cons {s : State} {g : List Move} {gs : List (List Move)} (h : s.env = g :: gs) :
    outerGap s = applyMoves g { s with env := gs } := by
  simp [outerGap, h]

/-- R266, R270: a handler that still runs after the gap performs its body and returns. -/
theorem step_handlerBody {s t : State} {x : Handler} (hx : s.cpu.handler = some x)
    (hr : NoReset (s.env.take 1)) (e : exec x.body (outerGap s) = .next t) : step s = .next (returnIrq t) := by
  have hgap := outerGap_handler_of_noReset hx hr
  simp [step, hx, endHandler, Cpu.inIsr, hgap, e]

/-- Settles O7: the gap before the body is quiet, or holds moves that leave the handler running. -/
theorem stepRunsHandler : Obligations.StepRunsHandler := by
  unfold Obligations.StepRunsHandler
  intro s t x hx
  refine ⟨fun hquiet e => ?_, fun g gs henv hr e => ?_⟩
  · have hnone : NoReset (s.env.take 1) := by
      obtain henv | hhead := hquiet
      · simp [NoReset, henv]
      · obtain ⟨gs, henv⟩ := List.head?_eq_some_iff.1 hhead
        simp [NoReset, henv]
    exact step_handlerBody hx hnone (by rwa [outerGap_of_quiet hquiet])
  · exact step_handlerBody hx (by simpa [NoReset, henv] using hr) (by rwa [outerGap_cons henv])

/-! ### The gap before a handler's entry -/

/-- Interrupts may be taken and a request is true (R267). -/
structure MayEnter (s : State) : Prop where
  gie : s.cpu.gie = true
  handler : s.cpu.handler = none
  request : ∃ x, s.request x = true

theorem MayEnter.chooseIrq {s : State} (h : MayEnter s) : ∃ x, chooseIrq s = some x ∧ s.request x = true := by
  obtain ⟨hg, hh, y, hy⟩ := h
  have hmay : s.mayTake = true := by simp [State.mayTake, Cpu.inIsr, hg, hh]
  have hne : Machine.chooseIrq s ≠ none := fun hnone => by
    obtain hoff | hempty := (chooseIrq_none s).1 hnone
    · simp [hmay] at hoff
    · simpa [hempty] using (mem_requests s y).2 hy
  obtain ⟨x, hx⟩ := Option.ne_none_iff_exists'.1 hne
  exact ⟨x, hx, (chooseIrq_some hx).2.2⟩

theorem mayEnter_of_requests {s : State} (hg : s.cpu.gie = true) (hh : s.cpu.handler = none) (hr : s.requests ≠ []) :
    MayEnter s := by
  obtain ⟨x, hx⟩ := List.exists_mem_of_ne_nil _ hr
  exact ⟨hg, hh, x, (mem_requests s x).1 hx⟩

/-- Environment moves leave an interrupt to take (R46 to R51, R267). -/
theorem applyMoves_mayEnter {g : List Move} {s : State} (h : MayEnter s) (hirq : Move.irq ∉ g) (hr : Move.reset ∉ g) :
    MayEnter (applyMoves g s) := by
  unfold applyMoves
  induction g generalizing s with
  | nil => exact h
  | cons m g ih =>
    obtain ⟨hm, hirq⟩ : Move.irq ≠ m ∧ Move.irq ∉ g := by simpa using hirq
    obtain ⟨hm', hr⟩ : Move.reset ≠ m ∧ Move.reset ∉ g := by simpa using hr
    refine ih ?_ hirq hr
    cases m with
    | event e =>
      obtain ⟨hg, hh, x, hx⟩ := h
      simp only [applyMove, envStep]
      split
      · have hcpu := (envEvent_beside e s).cpu
        exact ⟨hcpu ▸ hg, hcpu ▸ hh, x, envEvent_keeps_request e hx⟩
      · exact ⟨hg, hh, x, hx⟩
    | irq => exact absurd rfl hm
    | reset => exact absurd rfl hm'

/-- R267: what entry writes. -/
theorem takeIrq_eq (x : Handler) (s : State) : takeIrq x s = { s with
    cpu := { gie := false, handler := some x }
    hw := { s.hw with tovPending := if x = .tov then false else s.hw.tovPending }
    draws := s.draws + 1 } := by
  cases x <;> simp [takeIrq]

/-- R267, R268: the handler of a request true after the gap is entered. -/
theorem step_entry {s : State} (h : MayEnter s) (hgap : MayEnter (outerGap s)) :
    ∃ x, (outerGap s).request x = true ∧ step s = .next (takeIrq x (outerGap s)) := by
  obtain ⟨y, hy, -⟩ := h.chooseIrq
  obtain ⟨x, hx, hreq⟩ := hgap.chooseIrq
  exact ⟨x, hreq, by simp [step, h.handler, hy, enterHandler, hx]⟩

/-- Settles O8: a request that is true stays true through the moves before the entry. -/
theorem stepTakesInterrupt : Obligations.StepTakesInterrupt := by
  unfold Obligations.StepTakesInterrupt
  intro s
  refine ⟨fun hg hh hr hquiet => ?_, fun g gs hg hh hr henv hirq hreset => ?_, fun hg => ?_, fun hh => ?_⟩
  · have henter := mayEnter_of_requests hg hh hr
    have hgap := outerGap_of_quiet hquiet
    obtain ⟨x, hx, e⟩ := step_entry henter (by rw [hgap]; exact ⟨hg, hh, henter.request⟩)
    rw [hgap, takeIrq_eq] at e
    rw [hgap] at hx
    exact ⟨x, hx, e⟩
  · have henter := mayEnter_of_requests hg hh hr
    have hgap := outerGap_cons henv
    have hmoves : MayEnter (applyMoves g { s with env := gs }) :=
      applyMoves_mayEnter ⟨hg, hh, henter.request⟩ hirq hreset
    obtain ⟨x, hx, e⟩ := step_entry henter (hgap ▸ hmoves)
    rw [hgap, takeIrq_eq] at e
    rw [hgap] at hx
    exact ⟨x, hx, e⟩
  · exact (chooseIrq_none s).2 (.inl (by simp [State.mayTake, hg]))
  · have hisr : s.cpu.inIsr = true := Option.isSome_iff_ne_none.2 hh
    exact (chooseIrq_none s).2 (.inl (by simp [State.mayTake, hisr]))

end Sys2Proof.Machine
end

section
/-! SUPPORT. HOST's reset (R55, R68, R300): what it leaves, and where it happens. The gap in which it stands runs no handler
after it. -/

namespace Sys2Proof.Machine

/-! ### The word -/

theorem exec_envReset (s : State) : exec .envReset s = .next (hardwareReset s) := rfl

/-- R95: the word of a reset is its opcode, under any parameters. -/
theorem decode_envReset (P : Params) (rest : List Byte) : decode P (0xEF :: rest) = .ok (.envReset, rest) :=
  decodeEncode P .envReset rest rfl

/-! ### The reset in a gap -/

theorem applyMoves_append (g g' : List Move) (s : State) : applyMoves (g ++ g') s = applyMoves g' (applyMoves g s) :=
  List.foldl_append

/-- R300: after the moves before it the block is reset, and the moves after it are made in the reset block. -/
theorem applyMoves_reset (before after : List Move) (s : State) :
    applyMoves (before ++ .reset :: after) s = applyMoves after (hardwareReset (applyMoves before s)) := by
  rw [applyMoves_append]
  rfl

/-- The block between operations, interrupts off and no handler running, as a reset leaves it (R55). -/
structure Booting (s : State) : Prop where
  cpu : s.cpu = { gie := false, handler := none }
  fg : s.fg = .idle

theorem hardwareReset_booting (s : State) : Booting (hardwareReset s) := ⟨rfl, rfl⟩

theorem Booting.chooseIrq {s : State} (h : Booting s) : chooseIrq s = none :=
  (chooseIrq_none s).2 (.inl (by simp [State.mayTake, h.cpu]))

/-- The environment and another reset leave the block as it boots: no handler can be taken (R267). -/
theorem Booting.applyMoves {s : State} (h : Booting s) (g : List Move) : Booting (applyMoves g s) := by
  refine applyMoves_keeps (P := Booting) (fun e u _ h => ?_) (fun x u hc h => ?_) (fun _ u _ => hardwareReset_booting u) h
  · have b := envEvent_beside e u
    exact ⟨b.cpu.trans h.cpu, b.fg.trans h.fg⟩
  · simp [h.chooseIrq] at hc

/-- R300: what a gap with a reset in it leaves. -/
theorem applyMoves_reset_booting (before after : List Move) (s : State) :
    Booting (Machine.applyMoves (before ++ .reset :: after) s) := by
  rw [applyMoves_reset]
  exact (hardwareReset_booting _).applyMoves after

/-- R68, R300: in the gap before a handler's entry or body a reset leaves nothing to enter or to perform. -/
theorem step_reset {s : State} (hs : s.cpu.handler ≠ none ∨ chooseIrq s ≠ none) (hgap : Booting (outerGap s)) :
    step s = .next (outerGap s) := by
  have hnone : (outerGap s).cpu.handler = none := by rw [hgap.cpu]
  cases hh : s.cpu.handler with
  | some x => exact step_abandons_handler hh hnone
  | none =>
    obtain ⟨x, hx⟩ := Option.ne_none_iff_exists'.1 (hs.resolve_left (by simp [hh]))
    simp [step, hh, hx, enterHandler, hgap.chooseIrq]

/-- R68, R300: in the gap after a labelled step a reset ends the run. -/
theorem runFg_reset (n : Nat) {s u : State} {g : List Move} {gs : List (List Move)} (hstep : fgStep s = .next u)
    (hgo : u.fg ≠ .idle) (henv : u.env = g :: gs) (hgap : Booting (applyMoves g { u with env := gs })) :
    runFg (n + 1) s = .next (applyMoves g { u with env := gs }) := by
  have hbusy : u.fg.isIdle = false := by
    cases hfg : u.fg with
    | idle => exact absurd hfg hgo
    | _ => rfl
  have hserved : gap g { u with env := gs } = applyMoves g { u with env := gs } :=
    serveAll_eq_self (by simp [State.mayTake, hgap.cpu])
  rw [runFg_gap hstep hbusy henv, hserved]
  exact runFg_of_idle (by simp [fgStep, hgap.fg]) hgap.fg

/-- Settles O55: the values are those of the state after reset or free; where the reset stands in a gap, nothing but its
moves is left to happen there. -/
theorem envReset : Obligations.EnvReset := by
  unfold Obligations.EnvReset
  refine ⟨fun s => ?_, fun s rest hi hh hc => ?_, fun s before after gs henv hs => ?_,
    fun n s u before after gs hstep hgo henv => ?_⟩
  · have hdl : ∀ D ∈ (hardwareReset s).dl, D.made = false := fun D hD => by
      obtain ⟨i, rfl⟩ := List.mem_ofFn.1 hD
      rfl
    have hsw : ∀ W ∈ (hardwareReset s).sw, W.made = false := fun W hW => by
      obtain ⟨i, rfl⟩ := List.mem_ofFn.1 hW
      rfl
    exact ⟨hardwareReset s, rfl, rfl, hardwareReset_inv, rfl, rfl, rfl, rfl, rfl, rfl,
      rfl, rfl, rfl, rfl, rfl, rfl, rfl, rfl, rfl, rfl, rfl, rfl, rfl, rfl, rfl,
      hdl, hsw, rfl, rfl, rfl, rfl, rfl, rfl,
      rfl, rfl, rfl, rfl, rfl, rfl, rfl⟩
  · exact stepRunsIssued s .envReset rest hh hc (hi ▸ decode_envReset s.cfg rest) (.inr rfl)
  · have hgap : outerGap s = applyMoves (before ++ .reset :: after) { s with env := gs } := outerGap_cons henv
    refine ⟨_, exec_envReset _, ?_⟩
    rw [step_reset hs (hgap ▸ applyMoves_reset_booting before after _), hgap, applyMoves_reset]
  · refine ⟨_, exec_envReset _, ?_⟩
    rw [runFg_reset n hstep hgo henv (applyMoves_reset_booting before after _), applyMoves_reset]

end Sys2Proof.Machine
end

section
/-! SUPPORT. Where faults come from (R263, R272): the labelled steps, the handlers and the environment raise none, so that a
fault is that of an issued operation that reads what the spec gives no value. -/

namespace Sys2Proof.Machine

/-! ### What a fault says -/

/-- What the operation `i`, issued in `s`, reads without a value where it faults (R122, R123, R213, R215, U3, U4). -/
def FaultOrigin (s : State) (i : Instr) : Fault → Prop
  | .popEmpty => ∃ sel, (i = .rbPop sel ∨ i = .rbTop sel) ∧ (s.ring sel).count = 0
  | .adcValueBeforeCompletion => ∃ c, (i = .adcValueOf c ∨ (i = .adcValue ∧ c = s.adc.cur)) ∧
      s.adc.valid[c]? = some false
  | .unconstructedDeadline => ∃ d D, (i = .dlElapsed d ∨ i = .dlRestart d) ∧ s.dl[d]? = some D ∧ D.made = false
  | .unconstructedStopwatch => ∃ w W, i = .swElapsedTime w ∧ s.sw[w]? = some W ∧ W.made = false
  | .payloadUnset => i = .cfPayload 0 ∧ s.cf.ready = false

/-- A fault that the answer gives, if it gives one, meets `P`. -/
def FaultsAs (P : Fault → Prop) : Answer → Prop
  | .next _ => True
  | .fault r => P r
  | .refused _ => True

theorem GoesOn.faultsAs {P : Fault → Prop} {a : Answer} (h : GoesOn a) : FaultsAs P a := by
  obtain ⟨t, rfl, -⟩ := h
  trivial

section
variable {P : Fault → Prop} {s : State} {a : Answer}

/-- The context check of R281 raises no fault. -/
theorem inForeground_faultsAs (h : FaultsAs P a) : FaultsAs P (inForeground s a) := by
  unfold inForeground
  split
  · trivial
  · split
    · exact h
    · trivial

/-- The context check of a handler's body raises no fault (R281). -/
theorem inHandler_faultsAs {x : Handler} (h : FaultsAs P a) : FaultsAs P (inHandler x s a) := by
  unfold inHandler
  split
  · exact h
  · trivial

/-- The context check of a ring operation raises no fault (R281, R129). -/
theorem inRingContext_faultsAs {hs : List Handler} (h : FaultsAs P a) : FaultsAs P (inRingContext hs s a) := by
  unfold inRingContext
  split
  · split
    · exact h
    · trivial
  · split
    · split
      · trivial
      · exact h
    · trivial

/-- R211: a start is refused or goes on. -/
theorem startConversion_faultsAs (r : Result) : FaultsAs P (withResult r (startConversion s)) := by
  unfold startConversion
  split
  · trivial
  · split <;> trivial

/-- R214: an advance is refused or goes on. -/
theorem startNextConversion_faultsAs (r : Result) : FaultsAs P (withResult r (startNextConversion s)) := by
  unfold startNextConversion
  split
  · trivial
  · exact startConversion_faultsAs r

/-- U5: a sample is missing where no conversion of the channel has completed. -/
theorem sampleOf_faultsAs {c : Nat} (h : s.adc.valid[c]? = some false → P .adcValueBeforeCompletion) :
    FaultsAs P (sampleOf c s) := by
  unfold sampleOf
  split
  · trivial
  · next hv _ => exact h hv
  · trivial

theorem environment_faultsAs (e : EnvEvent) : FaultsAs P (environment e s) := by
  unfold environment
  split <;> trivial

/-- A composite operation that starts at a label that fits the state raises no fault (R10, R272). -/
theorem startAt_faultsAs {l : Fg} (h : FgRuns s) (hl : FgOk { s with fg := l }) : FaultsAs P (startAt l s) :=
  (continueFg_goesOn ⟨h.inv.move hl, h.noHandler⟩).faultsAs

end

/-! ### Operations -/

/-- R263: an operation whose operands are in range faults where it reads what has no value. -/
theorem exec_faultsAs {i : Instr} {s : State} (h : FgRuns s) (hw : i.wellFormed s.cfg = true) :
    FaultsAs (FaultOrigin s i) (exec i s) := by
  cases i with
  | rbPush | rbEmpty | rbFull | rbSize | btfCheck => exact inRingContext_faultsAs trivial
  | rbPop r =>
    refine inRingContext_faultsAs ?_
    obtain ⟨hc, e⟩ | ⟨-, e⟩ := ringPop_cases (capacity s.cfg r) (s.ring r) <;> rw [e]
    · exact ⟨r, .inl rfl, hc⟩
    · trivial
  | rbTop r =>
    refine inRingContext_faultsAs ?_
    obtain ⟨hc, e⟩ | ⟨-, e⟩ := ringTop_cases (s.ring r) <;> rw [e]
    · exact ⟨r, .inr rfl, hc⟩
    · trivial
  | clkProcess | spIntrTx => exact inHandler_faultsAs trivial
  | spIntrRx =>
    refine inHandler_faultsAs ?_
    split <;> trivial
  | clkNow => exact inForeground_faultsAs (startAt_faultsAs h ⟨trivial, trivial⟩)
  | dlNew d duration =>
    simp only [Instr.wellFormed, Bool.and_eq_true] at hw
    refine inForeground_faultsAs ?_
    split
    · next hd =>
      have hlt := (List.getElem?_eq_some_iff.1 hd).1
      exact startAt_faultsAs h ⟨trivial, hlt, fitsWidth_of_timeFits hw.2⟩
    · trivial
  | dlElapsed d =>
    refine inForeground_faultsAs ?_
    split
    · next D hd =>
      have hlt := (List.getElem?_eq_some_iff.1 hd).1
      split
      · split
        · trivial
        · exact startAt_faultsAs h ⟨trivial, hlt⟩
      · next hm => exact ⟨d, D, .inl rfl, hd, Bool.eq_false_iff.2 hm⟩
    · trivial
  | dlRestart d =>
    refine inForeground_faultsAs ?_
    split
    · next D hd =>
      have hlt := (List.getElem?_eq_some_iff.1 hd).1
      split
      · exact startAt_faultsAs h ⟨trivial, hlt⟩
      · next hm => exact ⟨d, D, .inr rfl, hd, Bool.eq_false_iff.2 hm⟩
    · trivial
  | dlCancel d =>
    refine inForeground_faultsAs ?_
    split <;> trivial
  | swNew w =>
    refine inForeground_faultsAs ?_
    split
    · next hd => exact startAt_faultsAs h ⟨trivial, (List.getElem?_eq_some_iff.1 hd).1⟩
    · trivial
  | swElapsedTime w =>
    refine inForeground_faultsAs ?_
    split
    · next W hd =>
      have hlt := (List.getElem?_eq_some_iff.1 hd).1
      split
      · exact startAt_faultsAs h ⟨trivial, hlt⟩
      · next hm => exact ⟨w, W, rfl, hd, Bool.eq_false_iff.2 hm⟩
    · trivial
  | spInit baud async =>
    refine inForeground_faultsAs ?_
    split
    · trivial
    · split <;> trivial
  | spEmpty | spTxEmpty | spTxReady | spOverflow | spClearOverflow => exact inForeground_faultsAs trivial
  | spProcessRx | spProcessTx | adcProcess | cli | sei => exact inForeground_faultsAs trivial
  | spRead | spFlush => exact inForeground_faultsAs (startAt_faultsAs h trivial)
  | spWrite b =>
    refine inForeground_faultsAs (startAt_faultsAs h ?_)
    split <;> assumption
  | adcValue => exact inForeground_faultsAs (sampleOf_faultsAs fun hv => ⟨_, .inr ⟨rfl, rfl⟩, hv⟩)
  | adcValueOf c => exact inForeground_faultsAs (sampleOf_faultsAs fun hv => ⟨c, .inl rfl, hv⟩)
  | adcStart => exact inForeground_faultsAs (startConversion_faultsAs _)
  | adcNext => exact inForeground_faultsAs (startNextConversion_faultsAs _)
  | cfPushData b =>
    refine inForeground_faultsAs ?_
    split
    · next hst =>
      split
      · exact startAt_faultsAs h ⟨trivial, hst⟩
      · trivial
    · next hst => exact startAt_faultsAs h ⟨trivial, hst⟩
  | cfPayload c =>
    refine inForeground_faultsAs ?_
    split
    · next hc =>
      split
      · trivial
      · next hm => exact ⟨hc ▸ rfl, Bool.eq_false_iff.2 hm⟩
    · trivial
  | blSignal count on off =>
    simp only [Instr.wellFormed, Bool.and_eq_true] at hw
    obtain ⟨⟨hcount, hon⟩, hoff⟩ := hw
    exact inForeground_faultsAs
      (startAt_faultsAs h ⟨lt_of_indexFits hcount, fitsWidth_of_timeFits hon, fitsWidth_of_timeFits hoff⟩)
  | blProcess =>
    refine inForeground_faultsAs ?_
    split
    · trivial
    · next hne => exact startAt_faultsAs h ⟨trivial, hne⟩
  | pump => exact inForeground_faultsAs (startAt_faultsAs h (fgOk_pump (adcNext_notMem_pumpAll _) trivial))
  | wait duration => exact inForeground_faultsAs (startAt_faultsAs h ⟨trivial, fitsWidth_of_timeFits hw⟩)
  | envTick | envReset => trivial
  | envRx | envTxDone | envAdcDone => exact environment_faultsAs _

/-- An environment event raises no fault wherever it happens, so a fault is that of a word performed between operations. -/
theorem exec_env_no_fault {i : Instr} (hi : i.isEnv = true) (s : State) (r : Fault) : exec i s ≠ .fault r := by
  have hnone : FaultsAs (fun _ => False) (exec i s) := by
    cases i <;> cases hi
    case envTick | envReset => trivial
    case envRx | envTxDone | envAdcDone => exact environment_faultsAs _
  intro e
  rw [e] at hnone
  exact hnone

/-! ### Steps -/

/-- A step that faults performs an issued word: a handler completes, and an operation in progress goes on (R272). -/
theorem step_fault {s : State} {r : Fault} (h : Inv s) (e : step s = .fault r) :
    ∃ i rest, s.cpu.handler = none ∧ fetch s = .perform i rest ∧ exec i { s with issue := rest } = .fault r := by
  have hn : s.cpu.handler = none := by
    by_contra hne
    obtain ⟨t, ht, -⟩ := (inProgressNeverStops s h).2.2 hne
    cases ht.symm.trans e
  simp only [step, hn] at e
  split at e
  · cases e
  · split at e
    · cases e
    · obtain ⟨t, ht, -⟩ := continueFg_goesOn ⟨h, hn⟩
      cases ht.symm.trans e
    · next i rest hf => exact ⟨i, rest, hn, hf, e⟩
    · cases e

/-- R68: a word that is no environment event is performed between operations. -/
theorem idle_of_fetch {s : State} {i : Instr} {rest : List Byte} (hf : fetch s = .perform i rest)
    (hi : i.isEnv = false) : s.fg = .idle := by
  have hidle : s.fg.isIdle = true := by
    by_contra hbusy
    rw [Bool.not_eq_true] at hbusy
    unfold fetch at hf
    split at hf
    · split at hf <;> cases hf
    · split at hf
      · split at hf
        · next hor =>
          cases hf
          simp [hbusy, hi] at hor
        · cases hf
      · split at hf <;> cases hf
  cases hfg : s.fg with
  | idle => rfl
  | _ => simp [hfg, Fg.isIdle] at hidle

/-- Settles O13: the fault is that of the performed word, whose operands the decoder has checked. -/
theorem faultOrigins : Obligations.FaultOrigins := by
  unfold Obligations.FaultOrigins
  intro s r h e
  obtain ⟨i, rest, hn, hf, he⟩ := step_fault h e
  have hd := decode_of_fetch hf
  have hrest : FgRuns { s with issue := rest } := ⟨{ h with }, hn⟩
  have horigin : FaultOrigin s i r := by
    have hall := exec_faultsAs hrest (wellFormed_of_decode hd)
    rw [he] at hall
    exact hall
  have hidle : s.fg = .idle := idle_of_fetch hf (Bool.eq_false_iff.2 fun hi => exec_env_no_fault hi _ r he)
  refine ⟨i, rest, hd, hn, hidle, ?_⟩
  cases r <;> exact horigin

end Sys2Proof.Machine
end

section
/-! SUPPORT. Parts of the state (R20): what each handler body and each unit of a `PUMP` reads and writes, so that two
operations on different parts may be made in either order (R250, R271). -/

namespace Sys2Proof.Machine

/-! ### Parts -/

/-- The parts of the state on which the operations of this section act, one each. -/
inductive Part where
  /-- The processor fields, the pending overflow and the draws: what taking an interrupt and returning write (R267, R270). -/
  | processor
  | tally
  | receive
  | transmit
  | scanner
  | blinker
  /-- The place of the foreground and its result, the schedule, the counter and the ticks. -/
  | course

/-- `s` with one part taken from `u`. -/
def State.withPart (p : Part) (s u : State) : State :=
  match p with
  | .processor => { s with cpu := u.cpu, hw := { s.hw with tovPending := u.hw.tovPending }, draws := u.draws }
  | .tally => { s with clk := u.clk }
  | .receive =>
    { s with sp := { s.sp with rx := u.sp.rx, loss := u.sp.loss, progress := u.sp.progress },
             hw := { s.hw with rxFrame := u.hw.rxFrame }, bootRequest := u.bootRequest, isrResult := u.isrResult,
             past := u.past }
  | .transmit =>
    { s with sp := { s.sp with tx := u.sp.tx }, lineOut := u.lineOut,
             hw := { s.hw with txEmpty := u.hw.txEmpty, dreIe := u.hw.dreIe } }
  | .scanner =>
    { s with adc := u.adc,
             hw := { s.hw with adcReady := u.hw.adcReady, adcBusy := u.hw.adcBusy, adcResult := u.hw.adcResult } }
  | .blinker => { s with bl := u.bl }
  | .course => { s with fg := u.fg, result := u.result, env := u.env, hw := { s.hw with cnt := u.hw.cnt }, ticks := u.ticks }

theorem withPart_cfg (p : Part) (s u : State) : (s.withPart p u).cfg = s.cfg := by cases p <;> rfl

theorem withPart_self (p : Part) (s : State) : s.withPart p s = s := by cases p <;> rfl

/-- Different parts share no field. -/
theorem withPart_comm {p q : Part} (hpq : p ≠ q) (s u v : State) :
    (s.withPart p u).withPart q v = (s.withPart q v).withPart p u := by
  cases p <;> cases q <;> try rfl
  all_goals exact absurd rfl hpq

/-- `f` reads and writes the part `p` alone, under given parameters: where `t` agrees with `s` on it, `f` does to it in `t`
what it does in `s`. -/
def ActsOn (p : Part) (f : State → State) : Prop :=
  ∀ s t : State, t.cfg = s.cfg → t.withPart p s = t → f t = t.withPart p (f s)

namespace ActsOn
variable {p q : Part} {f g : State → State}

/-- What acts on a part leaves the others alone. -/
theorem eq_withPart (hf : ActsOn p f) (s : State) : f s = s.withPart p (f s) := hf s s rfl (withPart_self p s)

theorem cfg (hf : ActsOn p f) (s : State) : (f s).cfg = s.cfg := by rw [hf.eq_withPart s, withPart_cfg]

/-- What is in another part does not matter. -/
theorem withPart (hf : ActsOn p f) (hpq : p ≠ q) (s u : State) : f (s.withPart q u) = (f s).withPart q u := by
  have hsame : (s.withPart q u).withPart p s = s.withPart q u := by rw [withPart_comm hpq.symm, withPart_self]
  rw [hf s _ (withPart_cfg ..) hsame, withPart_comm hpq.symm, ← hf.eq_withPart]

/-- What is done to different parts may be done in either order. -/
theorem comm (hf : ActsOn p f) (hg : ActsOn q g) (hpq : p ≠ q) (s : State) : f (g s) = g (f s) := by
  calc f (g s)
    _ = (f s).withPart q (g s) := by rw [hg.eq_withPart s, hf.withPart hpq, ← hg.eq_withPart]
    _ = (g s).withPart p (f s) := by
      conv_lhs => rw [hf.eq_withPart s]
      rw [withPart_comm hpq, ← hg.eq_withPart]
    _ = g (f s) := by rw [hf.eq_withPart s, hg.withPart hpq.symm, ← hf.eq_withPart]

end ActsOn

/-! ### Handlers -/

/-- The processor fields from a handler's entry to its return: the body's run with what it finds and what it leaves of
them (R267, R270). -/
def interrupt (x : Handler) (s : State) : State := returnIrq (takeIrq x s)

theorem interrupt_actsOn (x : Handler) : ActsOn .processor (interrupt x) := fun s t _ h => by
  rw [← h]
  rfl

theorem bumpTally_actsOn : ActsOn .tally bumpTally := fun s t hcfg h => by
  rw [← h]
  simp only [bumpTally, State.withPart, hcfg]

/-- R185: what a frame does depends on the receive part and the parameters alone. -/
theorem intrRx_withPart (f : Frame) {s t : State} (hcfg : t.cfg = s.cfg) (h : t.withPart .receive s = t) :
    intrRx f t = t.withPart .receive (intrRx f s) := by
  have hrx : t.sp.rx = s.sp.rx := by rw [← h]; rfl
  have hloss : t.sp.loss = s.sp.loss := by rw [← h]; rfl
  have hprogress : t.sp.progress = s.sp.progress := by rw [← h]; rfl
  have hboots : t.bootRequest = s.bootRequest := by rw [← h]; rfl
  have hpast : t.past = s.past := by rw [← h]; rfl
  rw [intrRx_eq_received, intrRx_eq_received f s, filterByte_congr f.data hcfg hprogress hboots]
  cases hfe : f.fe <;>
    simp [State.withPart, rxAfter, lossAfter, lossTaken, State.drops, hfe, hcfg, hrx, hloss, hprogress, hboots, hpast]

theorem processRx_actsOn : ActsOn .receive processRx := fun s t hcfg h => by
  have hframe : t.hw.rxFrame = s.hw.rxFrame := by rw [← h]; rfl
  obtain ⟨hs, e⟩ | ⟨f, hs, e⟩ := processRx_cases s
  · rw [e, h, processRx_none (hframe.trans hs)]
  · rw [e, processRx_some (hframe.trans hs), intrRx_withPart f hcfg h]

theorem drainOne_actsOn : ActsOn .transmit drainOne := fun s t hcfg h => by
  have htx : t.sp.tx = s.sp.tx := by rw [← h]; rfl
  have hready : t.hw.txEmpty = s.hw.txEmpty := by rw [← h]; rfl
  obtain ⟨e, hs⟩ | ⟨hr, hc, -⟩ := drainOne_cases s
  · rw [e, h, drainOne_eq_self (by rw [htx, hready]; exact hs.symm)]
  · rw [drainOne_ready hc hr, drainOne_ready (htx ▸ hc) (hready.trans hr), ← h]
    simp only [State.withPart, ← hcfg]

theorem intrTx_actsOn : ActsOn .transmit intrTx := fun s t hcfg h => by
  rw [intrTx_eq, intrTx_eq s, drainOne_actsOn s t hcfg h]
  rfl

/-- The part on which a handler's body acts (R266). -/
def Handler.part : Handler → Part
  | .tov => .tally
  | .rxc => .receive
  | .dre => .transmit

theorem handlerBody_actsOn (x : Handler) : ActsOn x.part (handlerBody x) := by
  cases x with
  | tov => exact bumpTally_actsOn
  | rxc => exact processRx_actsOn
  | dre => exact intrTx_actsOn

theorem interrupt_comm (x y : Handler) (s : State) : interrupt x (interrupt y s) = interrupt y (interrupt x s) := by
  simp [interrupt, takeIrq, returnIrq, Bool.and_right_comm]

/-- Settles O56: the bodies act on different parts, and none of them on the processor fields. -/
theorem handlersCommute : Obligations.HandlersCommute := by
  unfold Obligations.HandlersCommute
  intro x y s
  by_cases hxy : x = y
  · rw [hxy]
  have hparts : x.part ≠ y.part := by cases x <;> cases y <;> simp_all [Handler.part]
  have hprocessor (z : Handler) : Part.processor ≠ z.part := by cases z <;> simp [Handler.part]
  have hrun (z : Handler) (u : State) : runHandler z u = handlerBody z (interrupt z u) := runHandler_eq z u
  calc runHandler x (runHandler y s)
    _ = handlerBody x (interrupt x (handlerBody y (interrupt y s))) := by rw [hrun, hrun]
    _ = handlerBody x (handlerBody y (interrupt x (interrupt y s))) := by
      rw [(interrupt_actsOn x).comm (handlerBody_actsOn y) (hprocessor y)]
    _ = handlerBody y (handlerBody x (interrupt y (interrupt x s))) := by
      rw [(handlerBody_actsOn x).comm (handlerBody_actsOn y) hparts, interrupt_comm]
    _ = handlerBody y (interrupt y (handlerBody x (interrupt x s))) := by
      rw [(interrupt_actsOn y).comm (handlerBody_actsOn x) (hprocessor x)]
    _ = runHandler y (runHandler x s) := by rw [hrun, hrun]

end Sys2Proof.Machine
end

section
/-! SUPPORT. The units of a `PUMP` (R184, R186, R212, R214, R250): what each does to the state, in any order, and the parts of
the state that all of them leave alone. -/

namespace Sys2Proof.Machine

/-! ### The scan step -/

theorem scanAdvance_not_ready {s : State} (h : s.sampleReady = false) : scanAdvance s = s := if_neg (by simp [h])

/-- PU3 and PU4 of R250 where a conversion has completed: it is stored, and the next channel is started. -/
theorem scanAdvance_ready {s : State} {c : Channel} (h : s.sampleReady = true)
    (hc : s.cfg.channels[(s.adc.cur + 1) % s.cfg.channels.length]? = some c) : scanAdvance s =
      beginConversion c.ch { storeSample s with
        adc := { (storeSample s).adc with cur := (s.adc.cur + 1) % s.cfg.channels.length } } := by
  have hstart := startNextConversion_idle (s := storeSample s) rfl rfl hc
  rw [scanAdvance, if_pos h, hstart]
  rfl

/-- A channel list that lacks the next index leaves the scan step undone: no admitted parameters have one (R6). -/
theorem scanAdvance_no_channel {s : State}
    (hc : s.cfg.channels[(s.adc.cur + 1) % s.cfg.channels.length]? = none) : scanAdvance s = s := by
  have hstart : startNextConversion (storeSample s) = .refused .operandRange := by
    simp [startNextConversion, startConversion, hc]
  unfold scanAdvance
  split
  · rw [hstart]
  · rfl

theorem scanAdvance_actsOn : ActsOn .scanner scanAdvance := fun s t hcfg h => by
  have hready : t.sampleReady = s.sampleReady := by rw [← h]; rfl
  have hcur : t.adc.cur = s.adc.cur := by rw [← h]; rfl
  cases hr : s.sampleReady with
  | false => rw [scanAdvance_not_ready hr, scanAdvance_not_ready (hready.trans hr), h]
  | true =>
    cases hc : s.cfg.channels[(s.adc.cur + 1) % s.cfg.channels.length]? with
    | none => rw [scanAdvance_no_channel hc, scanAdvance_no_channel (by rwa [hcfg, hcur]), h]
    | some c =>
      rw [scanAdvance_ready hr hc, scanAdvance_ready (hready.trans hr) (by rwa [hcfg, hcur]), hcfg, ← h]
      rfl

/-! ### Units -/

/-- What a unit of a `PUMP` does, the blink unit with no sequence running (R250). -/
def pumpUnit (u : PumpUnit) (s : State) : State :=
  match u with
  | .serial => drainOne (processRx s)
  | .adc => scanAdvance s
  | .blink => s

/-- What several units do, in order. -/
def pumpUnits (us : List PumpUnit) (s : State) : State := us.foldl (fun t u => pumpUnit u t) s

theorem pumpUnits_cons (u : PumpUnit) (us : List PumpUnit) (s : State) :
    pumpUnits (u :: us) s = pumpUnits us (pumpUnit u s) := rfl

/-- R250: two units may be made in either order. -/
theorem pumpUnit_comm (u v : PumpUnit) (s : State) : pumpUnit u (pumpUnit v s) = pumpUnit v (pumpUnit u s) := by
  have hrx (t : State) : processRx (scanAdvance t) = scanAdvance (processRx t) :=
    processRx_actsOn.comm scanAdvance_actsOn nofun t
  have htx (t : State) : drainOne (scanAdvance t) = scanAdvance (drainOne t) :=
    drainOne_actsOn.comm scanAdvance_actsOn nofun t
  cases u with
  | blink => rfl
  | serial =>
    cases v with
    | serial | blink => rfl
    | adc => simp only [pumpUnit, hrx, htx]
  | adc =>
    cases v with
    | adc | blink => rfl
    | serial => simp only [pumpUnit, hrx, htx]

/-- R6: the order of the units is an order of all three. -/
theorem Params.pumpOrder_perm {P : Params} (h : P.valid = true) : P.pumpOrder.Perm [.serial, .adc, .blink] := by
  simp only [Params.valid, Bool.and_eq_true, decide_eq_true_eq] at h
  exact h.2

/-- R250: every order of the units leaves the same state. -/
theorem pumpUnits_pumpOrder {P : Params} (h : P.valid = true) (s : State) :
    pumpUnits P.pumpOrder s = scanAdvance (drainOne (processRx s)) :=
  (Params.pumpOrder_perm h).foldl_eq' (fun u _ v _ t => pumpUnit_comm v u t) s

/-! ### What the units leave alone -/

/-- No unit acts on the part. -/
def Part.unpumped : Part → Bool
  | .processor | .tally | .blinker | .course => true
  | .receive | .transmit | .scanner => false

theorem Part.ne_of_unpumped {q : Part} (hq : q.unpumped = true) : .receive ≠ q ∧ .transmit ≠ q ∧ .scanner ≠ q := by
  cases q <;> simp_all [Part.unpumped]

theorem pumpUnit_withPart {q : Part} (hq : q.unpumped = true) (u : PumpUnit) (s w : State) :
    pumpUnit u (s.withPart q w) = (pumpUnit u s).withPart q w := by
  obtain ⟨hrx, htx, hadc⟩ := Part.ne_of_unpumped hq
  cases u with
  | serial => simp only [pumpUnit, processRx_actsOn.withPart hrx, drainOne_actsOn.withPart htx]
  | adc => exact scanAdvance_actsOn.withPart hadc s w
  | blink => rfl

theorem pumpUnits_withPart {q : Part} (hq : q.unpumped = true) (us : List PumpUnit) (s w : State) :
    pumpUnits us (s.withPart q w) = (pumpUnits us s).withPart q w := by
  induction us generalizing s with
  | nil => rfl
  | cons u us ih => rw [pumpUnits_cons, pumpUnit_withPart hq, ih, pumpUnits_cons]

/-- The units leave the part as it was. -/
theorem pumpUnits_spares {q : Part} (hq : q.unpumped = true) (us : List PumpUnit) (s : State) :
    (pumpUnits us s).withPart q s = pumpUnits us s := by
  rw [← pumpUnits_withPart hq, withPart_self]

theorem pumpUnits_cpu (us : List PumpUnit) (s : State) : (pumpUnits us s).cpu = s.cpu := by
  rw [← pumpUnits_spares (q := .processor) rfl]
  rfl

theorem pumpUnits_clk (us : List PumpUnit) (s : State) : (pumpUnits us s).clk = s.clk := by
  rw [← pumpUnits_spares (q := .tally) rfl]
  rfl

theorem pumpUnits_bl (us : List PumpUnit) (s : State) : (pumpUnits us s).bl = s.bl := by
  rw [← pumpUnits_spares (q := .blinker) rfl]
  rfl

theorem pumpUnits_course (us : List PumpUnit) (s : State) :
    (pumpUnits us s).fg = s.fg ∧ (pumpUnits us s).env = s.env ∧ (pumpUnits us s).hw.cnt = s.hw.cnt := by
  rw [← pumpUnits_spares (q := .course) rfl]
  exact ⟨rfl, rfl, rfl⟩

theorem pumpUnit_cfg (u : PumpUnit) (s : State) : (pumpUnit u s).cfg = s.cfg := by
  cases u with
  | serial => exact (drainOne_actsOn.cfg _).trans (processRx_actsOn.cfg s)
  | adc => exact scanAdvance_actsOn.cfg s
  | blink => rfl

theorem pumpUnits_cfg (us : List PumpUnit) (s : State) : (pumpUnits us s).cfg = s.cfg := by
  induction us generalizing s with
  | nil => rfl
  | cons u us ih => rw [pumpUnits_cons, ih, pumpUnit_cfg]

/-- What acts on no unit's part may be done before the units or after them. -/
theorem pumpUnits_comm {q : Part} {g : State → State} (hq : q.unpumped = true) (hg : ActsOn q g) (us : List PumpUnit)
    (s : State) : pumpUnits us (g s) = g (pumpUnits us s) := by
  rw [hg s _ (pumpUnits_cfg us s) (pumpUnits_spares hq us s), ← pumpUnits_withPart hq, ← hg.eq_withPart]

/-! ### Requests -/

/-- R185: a poll raises no request. -/
theorem Undisturbed.processRx {s : State} (h : Undisturbed s) : Undisturbed (processRx s) := by
  refine h.of_requests (by rw [processRx_frame]) fun x hx => ?_
  rw [processRx_frame]
  cases x with
  | tov | dre => exact hx
  | rxc => exact Bool.and_false _

/-- The scanner and the blinker have no part in the requests (R53). -/
theorem ActsOn.undisturbed {p : Part} {f : State → State} (hf : ActsOn p f) (hp : p = .scanner ∨ p = .blinker) {s : State}
    (h : Undisturbed s) : Undisturbed (f s) := by
  rw [hf.eq_withPart s]
  obtain rfl | rfl := hp <;> exact h

theorem Undisturbed.pumpUnit {s : State} (h : Undisturbed s) (u : PumpUnit) : Undisturbed (pumpUnit u s) := by
  cases u with
  | serial => exact h.processRx.drainOne
  | adc => exact scanAdvance_actsOn.undisturbed (.inl rfl) h
  | blink => exact h

theorem Undisturbed.pumpUnits {s : State} (h : Undisturbed s) (us : List PumpUnit) : Undisturbed (pumpUnits us s) := by
  induction us generalizing s with
  | nil => exact h
  | cons u us ih => exact ih (h.pumpUnit u)

end Sys2Proof.Machine
end

section
/-! SUPPORT. Runs of labelled steps that nothing disturbs (R10, R268; log 4), under a schedule of quiet gaps and where the
schedule has run out, and `PUMP` (R250) as such a run. -/

namespace Sys2Proof.Machine

/-! ### After a labelled step -/

/-- How a run goes on after a labelled step that left `t`: with a gap, as long as the schedule has one, and then for `q`
quiet steps (log 4). -/
def resume (q : Nat) (t : State) : Answer :=
  if t.fg.isIdle then .next t
  else
    match t.env with
    | g :: gs => runFg (gs.length + q + 1) (gap g { t with env := gs })
    | [] => if (serveAll t).awaits then .next (serveAll t) else runFg q (serveAll t)

theorem runFg_eq_resume (q : Nat) {s t : State} (hstep : fgStep s = .next t) (henv : t.env = s.env) :
    runFg (s.env.length + q + 1) s = resume q t := by
  rw [← henv, runFg, hstep]
  dsimp only [resume]
  cases t.env with
  | nil => rw [List.length_nil, Nat.zero_add]
  | cons g gs => rw [List.length_cons, Nat.add_right_comm]

theorem continueFg_eq_resume {s t : State} (hstep : fgStep s = .next t) (henv : t.env = s.env) :
    continueFg s = resume 31 t := runFg_eq_resume 31 hstep henv

theorem resume_idle (q : Nat) {t : State} (h : t.fg = .idle) : resume q t = .next t := by
  simp [resume, h, Fg.isIdle]

section
variable {t : State} (hu : Undisturbed t) (hb : t.fg.isIdle = false)
include hu hb

/-- A quiet gap and what is done after it. -/
theorem resume_gap (gs : List (List Move)) (q : Nat) :
    resume q { t with env := [] :: gs } = runFg (gs.length + q + 1) { t with env := gs } := by
  have hquiet : Undisturbed { t with env := gs } := hu
  have hgap : gap [] { t with env := gs } = { t with env := gs } := hquiet.serveAll_eq_self
  simp [resume, hb, hgap]

/-- The start of a run is what comes after a quiet gap. -/
theorem continueFg_eq_resume_gap (gs : List (List Move)) :
    continueFg { t with env := gs } = resume 31 { t with env := [] :: gs } := (resume_gap hu hb gs 31).symm

/-- A run that does not wait, where the schedule has run out. -/
theorem resume_quiet (hw : t.awaits = false) (q : Nat) :
    resume q { t with env := [] } = runFg q { t with env := [] } := by
  have hquiet : Undisturbed { t with env := [] } := hu
  have hwaits : { t with env := [] }.awaits = false := hw
  simp [resume, hb, hquiet.serveAll_eq_self, hwaits]

/-- A run that waits, where the schedule has run out, is at its end (U14). -/
theorem resume_waits (hw : t.awaits = true) (q : Nat) : resume q { t with env := [] } = .next { t with env := [] } := by
  have hquiet : Undisturbed { t with env := [] } := hu
  have hwaits : { t with env := [] }.awaits = true := hw
  simp [resume, hb, hquiet.serveAll_eq_self, hwaits]

end

/-! ### Quiet runs -/

/-- A labelled step from `s` to `t` that does not look at the schedule, after a gap in which nothing happens. -/
structure QuietStep (s t : State) : Prop where
  undisturbed : Undisturbed s
  busy : s.fg.isIdle = false
  goes : s.awaits = false
  step : ∀ e, fgStep { s with env := e } = .next { t with env := e }

/-- `c` such steps. -/
inductive QuietRun : Nat → State → State → Prop where
  | refl (s : State) : QuietRun 0 s s
  | step {c : Nat} {s t u : State} (h : QuietStep s t) (r : QuietRun c t u) : QuietRun (c + 1) s u

namespace QuietRun

theorem single {s t : State} (h : QuietStep s t) : QuietRun 1 s t := .step h (.refl t)

theorem trans {c d : Nat} {s t u : State} (h : QuietRun c s t) (k : QuietRun d t u) : QuietRun (c + d) s u := by
  induction h with
  | refl => rwa [Nat.zero_add]
  | step h _ ih => rw [Nat.add_right_comm]; exact .step h (ih k)

/-- A quiet gap for each step takes the run to its end. -/
theorem resume_gaps {c : Nat} {s t : State} (h : QuietRun c s t) (q : Nat) (rest : List (List Move)) :
    resume q { s with env := List.replicate c [] ++ rest } = resume q { t with env := rest } := by
  induction h with
  | refl => rfl
  | step h _ ih => exact (resume_gap h.undisturbed h.busy _ q).trans ((runFg_eq_resume q (h.step _) rfl).trans ih)

/-- Where the schedule has run out, each step is one of the quiet steps left. -/
theorem resume_quiet {c : Nat} {s t : State} (h : QuietRun c s t) (q : Nat) :
    resume (c + q) { s with env := [] } = resume q { t with env := [] } := by
  induction h with
  | refl => rw [Nat.zero_add]
  | @step c s t u h _ ih =>
    have hfuel : c + 1 + q = [].length (α := List Move) + (c + q) + 1 := by simp; omega
    rw [Machine.resume_quiet h.undisturbed h.busy h.goes, hfuel]
    exact (runFg_eq_resume (c + q) (h.step []) rfl).trans ih

end QuietRun

/-! ### The parts of a PUMP -/

/-- What follows a part does not see where the foreground stood. -/
theorem pumpGoOn_place (todo : List PumpPart) (k : AfterPump) (s : State) (l : Fg) (e : List (List Move)) :
    pumpGoOn todo k { s with fg := l, env := e } = { pumpGoOn todo k s with env := e } := by
  cases todo with
  | nil => cases k <;> rfl
  | cons p ps => rfl

/-- A part of a `PUMP` as a quiet step (R250). -/
theorem quietStep_pump {p : PumpPart} {todo todo' : List PumpPart} {k : AfterPump} {s t : State} (hu : Undisturbed s)
    (h : ∀ l e, pumpStep p todo k { s with fg := l, env := e } = .next (pumpGoOn todo' k { t with fg := l, env := e })) :
    QuietStep (pumpGoOn (p :: todo) k s) (pumpGoOn todo' k t) where
  undisturbed := hu
  busy := rfl
  goes := rfl
  step e := (h (.pump (p :: todo) k) e).trans (congrArg _ (pumpGoOn_place todo' k t _ e))

/-- What acts on no part of the foreground's course does not see its place or the schedule. -/
theorem ActsOn.place {p : Part} {f : State → State} (hf : ActsOn p f) (hp : p ≠ .course) (s : State) (l : Fg)
    (e : List (List Move)) : f { s with fg := l, env := e } = { f s with fg := l, env := e } := by
  have hsame : f s = (f s).withPart .course s := by rw [← hf.withPart hp, withPart_self]
  calc f { s with fg := l, env := e }
    _ = (f s).withPart .course { s with fg := l, env := e } := hf.withPart hp s { s with fg := l, env := e }
    _ = { (f s).withPart .course s with fg := l, env := e } := rfl
    _ = { f s with fg := l, env := e } := by rw [← hsame]

/-- The labelled steps of a unit (R250). -/
def unitSteps (u : PumpUnit) (s : State) : Nat :=
  match u with
  | .serial => 2
  | .adc => if s.sampleReady then 2 else 1
  | .blink => 1

section
variable {s : State} (hu : Undisturbed s) (todo : List PumpPart) (k : AfterPump)
include hu

/-- PU1 and PU2. -/
theorem serial_run : QuietRun 2 (pumpGoOn (.rx :: .tx :: todo) k s) (pumpGoOn todo k (drainOne (processRx s))) := by
  have hrx : QuietStep (pumpGoOn (.rx :: .tx :: todo) k s) (pumpGoOn (.tx :: todo) k (processRx s)) :=
    quietStep_pump hu fun l e => by rw [pumpStep, processRx_actsOn.place nofun]
  have htx : QuietStep (pumpGoOn (.tx :: todo) k (processRx s)) (pumpGoOn todo k (drainOne (processRx s))) :=
    quietStep_pump hu.processRx fun l e => by rw [pumpStep, drainOne_actsOn.place nofun]
  exact .step hrx (.single htx)

/-- PU3 where no conversion has completed. -/
theorem adc_run_not_ready (hr : s.sampleReady = false) :
    QuietRun 1 (pumpGoOn (.adcPoll :: todo) k s) (pumpGoOn todo k (scanAdvance s)) := by
  refine .single (quietStep_pump hu fun l e => ?_)
  have hpoll : adcPoll { s with fg := l, env := e } = ({ s with fg := l, env := e }, false) := adcPoll_of_not_ready hr
  rw [pumpStep, hpoll, scanAdvance_not_ready hr]

/-- PU3 and PU4 where a conversion has completed. -/
theorem adc_run_ready {c : Channel} (hr : s.sampleReady = true)
    (hc : s.cfg.channels[(s.adc.cur + 1) % s.cfg.channels.length]? = some c) :
    QuietRun 2 (pumpGoOn (.adcPoll :: todo) k s) (pumpGoOn todo k (scanAdvance s)) := by
  have hpoll : QuietStep (pumpGoOn (.adcPoll :: todo) k s) (pumpGoOn (.adcNext :: todo) k (storeSample s)) := by
    refine quietStep_pump hu fun l e => ?_
    have hpoll : adcPoll { s with fg := l, env := e } = ({ storeSample s with fg := l, env := e }, true) :=
      adcPoll_of_ready hr
    rw [pumpStep, hpoll]
  have hstored : Undisturbed (storeSample s) := hu
  have hnext : QuietStep (pumpGoOn (.adcNext :: todo) k (storeSample s)) (pumpGoOn todo k (scanAdvance s)) := by
    refine quietStep_pump hstored fun l e => ?_
    have hstart := startNextConversion_idle (s := { storeSample s with fg := l, env := e }) rfl rfl hc
    rw [pumpStep, hstart, scanAdvance_ready hr hc]
    rfl
  exact .step hpoll (.single hnext)

/-- PU5 with no sequence running. -/
theorem blink_run (hz : s.bl.remaining = 0) : QuietRun 1 (pumpGoOn (.blink :: todo) k s) (pumpGoOn todo k s) :=
  .single (quietStep_pump hu fun _ _ => if_pos hz)

end

/-- R6, R214: the index after the current one names a channel. -/
theorem next_channel {P : Params} (h : P.valid = true) (cur : Nat) :
    ∃ c, P.channels[(cur + 1) % P.channels.length]? = some c := by
  obtain ⟨-, -, hpos⟩ := Params.valid_pos h
  exact ⟨_, List.getElem?_eq_getElem (Nat.mod_lt _ hpos)⟩

/-- A unit of a `PUMP` as a quiet run (R250), the blink unit with no sequence running. -/
theorem unit_run {s : State} (hv : s.cfg.valid = true) (hu : Undisturbed s) (u : PumpUnit)
    (hz : u = .blink → s.bl.remaining = 0) (todo : List PumpPart) (k : AfterPump) :
    QuietRun (unitSteps u s) (pumpGoOn (pumpParts u ++ todo) k s) (pumpGoOn todo k (pumpUnit u s)) := by
  cases u with
  | serial => exact serial_run hu todo k
  | blink => exact blink_run hu todo k (hz rfl)
  | adc =>
    obtain ⟨c, hc⟩ := next_channel hv s.adc.cur
    cases hr : s.sampleReady with
    | true =>
      have hsteps : unitSteps .adc s = 2 := if_pos hr
      exact hsteps ▸ adc_run_ready hu todo k hr hc
    | false =>
      have hsteps : unitSteps .adc s = 1 := if_neg (by simp [hr])
      exact hsteps ▸ adc_run_not_ready hu todo k hr

/-- The labelled steps of several units, in order. -/
def unitsSteps : List PumpUnit → State → Nat
  | [], _ => 0
  | u :: us, s => unitSteps u s + unitsSteps us (pumpUnit u s)

theorem unitsSteps_le (us : List PumpUnit) (s : State) : unitsSteps us s ≤ 2 * us.length := by
  induction us generalizing s with
  | nil => exact Nat.zero_le _
  | cons u us ih =>
    have hunit : unitSteps u s ≤ 2 := by
      unfold unitSteps
      split
      · exact le_rfl
      · split <;> omega
      · omega
    have hrest := ih (pumpUnit u s)
    simp only [unitsSteps, List.length_cons]
    omega

/-- Several units of a `PUMP` as a quiet run (R250). -/
theorem units_run {s : State} (hv : s.cfg.valid = true) (hu : Undisturbed s) (us : List PumpUnit)
    (hz : .blink ∈ us → s.bl.remaining = 0) (todo : List PumpPart) (k : AfterPump) :
    QuietRun (unitsSteps us s) (pumpGoOn (us.flatMap pumpParts ++ todo) k s) (pumpGoOn todo k (pumpUnits us s)) := by
  induction us generalizing s with
  | nil => exact .refl _
  | cons u us ih =>
    have hbl : (pumpUnit u s).bl = s.bl := pumpUnits_bl [u] s
    have hunit := unit_run hv hu u (fun e => hz (e ▸ List.mem_cons_self)) (us.flatMap pumpParts ++ todo) k
    have hrest := ih (s := pumpUnit u s) (by rwa [pumpUnit_cfg]) (hu.pumpUnit u)
      (fun hm => by rw [hbl]; exact hz (List.mem_cons_of_mem u hm))
    rw [List.flatMap_cons, List.append_assoc]
    exact hunit.trans hrest

/-! ### The gaps of a PUMP -/

/-- Only the scan unit changes whether a conversion is to be reported (R212). -/
theorem pumpUnit_sampleReady {u : PumpUnit} (hu : u ≠ .adc) (s : State) :
    (pumpUnit u s).sampleReady = s.sampleReady := by
  cases u with
  | serial => rw [pumpUnit, drainOne_actsOn.eq_withPart, processRx_actsOn.eq_withPart s]; rfl
  | adc => exact absurd rfl hu
  | blink => rfl

theorem pumpGaps_congr {us : List PumpUnit} {s t : State} (h : .adc ∈ us → t.sampleReady = s.sampleReady) :
    pumpGaps us t = pumpGaps us s := by
  unfold pumpGaps
  refine List.flatMap_congr fun u hm => ?_
  cases u with
  | adc => rw [h hm]
  | serial | blink => rfl

/-- The gaps of a `PUMP` are one for each labelled step of the units, if no unit comes twice and the blink unit is apart. -/
theorem pumpGaps_eq {us : List PumpUnit} (hb : .blink ∉ us) (hn : us.Nodup) (s : State) :
    pumpGaps us s = List.replicate (unitsSteps us s) [] := by
  induction us generalizing s with
  | nil => rfl
  | cons u us ih =>
    obtain ⟨hne, hb⟩ : .blink ≠ u ∧ .blink ∉ us := by simpa using hb
    obtain ⟨hfresh, hn⟩ := List.nodup_cons.1 hn
    have hunit : pumpGaps [u] s = List.replicate (unitSteps u s) [] := by
      cases u with
      | serial => rfl
      | adc => simp only [pumpGaps, unitSteps, List.flatMap_singleton]; split <;> rfl
      | blink => exact absurd rfl hne
    have hrest : pumpGaps us s = pumpGaps us (pumpUnit u s) :=
      pumpGaps_congr fun hm => (pumpUnit_sampleReady (u := u) (fun e => hfresh (e ▸ hm)) s).symm
    rw [unitsSteps, List.replicate_add, ← hunit, ← ih hb hn, ← hrest]
    exact List.flatMap_append (xs := [u]) ..

/-! ### PUMP -/

/-- A `PUMP` has something to do. -/
theorem pumpAll_eq_cons {P : Params} (h : P.valid = true) : ∃ p ps, pumpAll P = p :: ps := by
  have hne : P.pumpOrder ≠ [] := fun e => by simpa [e] using (Params.pumpOrder_perm h).length_eq
  obtain ⟨u, us, hus⟩ := List.exists_cons_of_ne_nil hne
  rw [pumpAll, hus]
  cases u <;> exact ⟨_, _, rfl⟩

end Sys2Proof.Machine
end

section
/-! SUPPORT. `PUMP` with nothing beside it (R250): alone, and with a sequence running under the schedule of one clock
reading. -/

namespace Sys2Proof.Machine

/-! ### No sequence running -/

/-- R281: `PUMP` where it may be issued. -/
theorem exec_pump {s : State} (h : Ready s) : exec .pump s = continueFg { s with fg := .pump (pumpAll s.cfg) .ret } :=
  inForeground_idle _ h.1 h.2

/-- A `PUMP` that begins stands before its first part (R250). -/
theorem pumpGoOn_pumpAll {P : Params} (h : P.valid = true) (k : AfterPump) (s : State) :
    pumpGoOn (pumpAll P) k s = { s with fg := .pump (pumpAll P) k } := by
  obtain ⟨p, ps, e⟩ := pumpAll_eq_cons h
  rw [e]
  rfl

/-- A `PUMP` begins as it goes on after a quiet gap. -/
theorem continueFg_pump {s : State} (hu : Undisturbed s) (todo : List PumpPart) (k : AfterPump) :
    continueFg { s with fg := .pump todo k } = resume 31 { s with fg := .pump todo k, env := [] :: s.env } :=
  continueFg_eq_resume_gap (t := { s with fg := .pump todo k }) hu rfl s.env

/-- The same where the schedule has run out. -/
theorem continueFg_pump_quiet {s : State} (henv : s.env = []) (hu : Undisturbed s) (todo : List PumpPart)
    (k : AfterPump) : continueFg { s with fg := .pump todo k } = resume 32 { s with fg := .pump todo k, env := [] } := by
  have hstart : { s with fg := .pump todo k } = { s with fg := .pump todo k, env := [] } := by rw [← henv]
  have hgo := resume_quiet (t := { s with fg := .pump todo k }) hu rfl rfl 32
  rw [hstart, hgo, continueFg_quiet rfl]

/-- The units of a whole `PUMP` with no sequence running (R250). -/
theorem pump_run {s : State} (hv : s.cfg.valid = true) (hu : Undisturbed s) (hz : s.bl.remaining = 0) (k : AfterPump) :
    QuietRun (unitsSteps s.cfg.pumpOrder s) { s with fg := .pump (pumpAll s.cfg) k }
      (pumpGoOn [] k (scanAdvance (drainOne (processRx s)))) := by
  have hrun := units_run hv hu s.cfg.pumpOrder (fun _ => hz) [] k
  rwa [List.append_nil, pumpUnits_pumpOrder hv, ← pumpAll, pumpGoOn_pumpAll hv] at hrun

/-- A `PUMP` makes at most six labelled steps with no sequence running. -/
theorem pump_steps_le {s : State} (hv : s.cfg.valid = true) : unitsSteps s.cfg.pumpOrder s ≤ 6 := by
  have hlen : s.cfg.pumpOrder.length = 3 := (Params.pumpOrder_perm hv).length_eq
  have hle := unitsSteps_le s.cfg.pumpOrder s
  omega

/-! ### A sequence running -/

/-- The blink unit reads the clock while a sequence runs (PU5 of R250). -/
theorem continueFg_blink {s : State} (hz : s.bl.remaining ≠ 0) (todo : List PumpPart) (k : AfterPump) :
    continueFg { s with fg := .pump (.blink :: todo) k } = startNow (.pumpBlink todo k) s := by
  have hpump : fgStep { s with fg := .pump (.blink :: todo) k } = .next (sampleFirst (.pumpBlink todo k) s) := if_neg hz
  exact (continueFg_eq_resume hpump rfl).trans
    (continueFg_eq_resume (s := { s with fg := .now .n1 (.pumpBlink todo k) }) rfl rfl).symm

/-- The schedule of one clock reading where the units before it have been made. -/
theorem Reading.pumped {n m : Nat} {rest rest' env : List (List Move)} {s : State}
    (h : Reading n m rest { s with env := env }) (us : List PumpUnit) : Reading n m rest' { pumpUnits us s with
      env := tickGap n :: (tallyGaps s.cfg ++ tickGap m :: [] :: [] :: rest') } := by
  obtain ⟨hfg, -, hcnt⟩ := pumpUnits_course us s
  have hcfg := pumpUnits_cfg us s
  obtain ⟨⟨hn, hidle⟩, -, hu, hwrap, haccepted⟩ := h
  have hquiet : Undisturbed s := hu
  exact
    { ready := ⟨(congrArg Cpu.handler (pumpUnits_cpu us s)).trans hn, hfg.trans hidle⟩
      schedule := by rw [← hcfg]
      undisturbed := hquiet.pumpUnits us
      no_wrap := by simpa only [hcfg, hcnt] using hwrap
      accepted := by simpa only [hcfg, hcnt] using haccepted }

theorem later_actsOn (n : Nat) (rest : List (List Move)) : ActsOn .course (State.later n rest) := fun s t _ h => by
  rw [← h]
  rfl

theorem blinkAt_actsOn (v : Nat) : ActsOn .blinker (blinkAt v) := fun s t hcfg h => by
  have hbl : t.bl = s.bl := by rw [← h]; rfl
  have hmoved : t.bl.moved t.cfg v = s.bl.moved s.cfg v := by rw [hbl, hcfg]
  rw [blinkAt_eq, blinkAt_eq v s, hmoved]
  rfl

/-- The end of a `PUMP` with `rest` of the schedule left. -/
def pumpEnd (rest : List (List Move)) (s : State) : State := finish .none { s with env := rest }

/-- The blink step leaves what is left of the schedule. -/
theorem pumpEnd_blinkAt (v n : Nat) (rest : List (List Move)) (s : State) :
    pumpEnd rest (blinkAt v (s.later n rest)) = finish .none (blinkAt v (s.later n rest)) := by
  rw [blinkAt_eq]
  rfl

/-- PU5 with a sequence running, the units before it made and those after it still to do (R242, R250). -/
theorem startNow_pumpBlink {n m : Nat} {rest rest' : List (List Move)} {s : State} (h : Reading n m rest' s)
    {us : List PumpUnit} (hrest : rest' = pumpGaps us s ++ rest) (hv : s.cfg.valid = true) (hb : .blink ∉ us)
    (hn : us.Nodup) :
    startNow (.pumpBlink (us.flatMap pumpParts) .ret) s = .next (pumpEnd rest (pumpUnits us
      (blinkAt (wideTime s.cfg s.clk.tally (s.hw.cnt + (n + m))) (s.later (n + m) rest)))) := by
  generalize hblink : blinkAt (wideTime s.cfg s.clk.tally (s.hw.cnt + (n + m))) (s.later (n + m) rest) = u
  have hcfg : u.cfg = s.cfg := by rw [← hblink, blinkAt_cfg]; rfl
  have hu : Undisturbed u := hblink ▸ (blinkAt_actsOn _).undisturbed (.inr rfl) h.undisturbed
  have hgaps : pumpGaps us s = List.replicate (unitsSteps us u) [] := by
    rw [← pumpGaps_eq hb hn, ← hblink, blinkAt_eq]
    exact pumpGaps_congr fun _ => rfl
  have hstep : fgStep (s.reads (.pumpBlink (us.flatMap pumpParts) .ret) (.n5 s.clk.tally (s.hw.cnt + (n + m))) (n + m)
      rest') = .next { pumpGoOn (us.flatMap pumpParts) .ret u with env := rest' } := by
    refine congrArg Host.Outcome.next ?_
    rw [← pumpGoOn_place, ← hblink, ← (blinkAt_actsOn _).place nofun]
    rfl
  have hrun := units_run (hcfg ▸ hv) hu us (fun hm => absurd hm hb) [] .ret
  rw [List.append_nil] at hrun
  rw [h.startNow, continueFg_eq_resume hstep rfl, hrest, hgaps, hrun.resume_gaps, resume_idle 31 rfl]
  rfl

theorem pumpUnits_sampleReady {us : List PumpUnit} (hus : .adc ∉ us) (s : State) :
    (pumpUnits us s).sampleReady = s.sampleReady := by
  induction us generalizing s with
  | nil => rfl
  | cons u us ih =>
    obtain ⟨hu, hus⟩ : .adc ≠ u ∧ .adc ∉ us := by simpa using hus
    rw [pumpUnits_cons, ih hus, pumpUnit_sampleReady hu.symm]

/-- The blink unit apart, the units of a `PUMP` are those before it and those after it. -/
theorem pumpUnits_around_blink (before after : List PumpUnit) (s : State) :
    pumpUnits after (pumpUnits before s) = pumpUnits (before ++ .blink :: after) s := by
  simp [pumpUnits, pumpUnit]

/-- The blink step with the ticks of its clock reading, made between the units, may be made after them all. -/
theorem pumpUnits_around_blinkAt {before after : List PumpUnit} {s : State} (hv : s.cfg.valid = true)
    (horder : s.cfg.pumpOrder = before ++ .blink :: after) (v n : Nat) (rest : List (List Move)) :
    pumpUnits after (blinkAt v ((pumpUnits before s).later n rest)) =
      blinkAt v ((scanAdvance (drainOne (processRx s))).later n rest) := by
  have hticks (us : List PumpUnit) (t : State) : (pumpUnits us t).later n rest = pumpUnits us (t.later n rest) :=
    (pumpUnits_comm rfl (later_actsOn n rest) us t).symm
  have hblink (us : List PumpUnit) (t : State) : blinkAt v (pumpUnits us t) = pumpUnits us (blinkAt v t) :=
    (pumpUnits_comm rfl (blinkAt_actsOn v) us t).symm
  rw [hticks, hblink, pumpUnits_around_blink, ← hblink, ← hticks, ← horder, pumpUnits_pumpOrder hv]

/-- A `PUMP` with a sequence running comes to the clock reading of its blink unit (R250). -/
theorem continueFg_pump_before {s : State} {before after : List PumpUnit} {env : List (List Move)}
    (hv : s.cfg.valid = true) (hu : Undisturbed s) (hb : .blink ∉ before) (hn : before.Nodup) (hz : s.bl.remaining ≠ 0)
    (horder : s.cfg.pumpOrder = before ++ .blink :: after) (henv : s.env = pumpGaps before s ++ env) :
    continueFg { s with fg := .pump (pumpAll s.cfg) .ret } =
      startNow (.pumpBlink (after.flatMap pumpParts) .ret) { pumpUnits before s with env := env } := by
  have hparts : pumpAll s.cfg = before.flatMap pumpParts ++ .blink :: after.flatMap pumpParts := by
    rw [pumpAll, horder, List.flatMap_append, List.flatMap_cons]
    rfl
  have hgaps : [] :: s.env = List.replicate (unitsSteps before s) [] ++ [] :: env := by
    rw [henv, pumpGaps_eq hb hn, ← List.cons_append, ← List.replicate_succ, List.replicate_succ', List.append_assoc]
    rfl
  have hrun := units_run hv hu before (fun hm => absurd hm hb) (.blink :: after.flatMap pumpParts) .ret
  rw [← hparts, pumpGoOn_pumpAll hv] at hrun
  have hbl : (pumpUnits before s).bl.remaining ≠ 0 := by rwa [pumpUnits_bl]
  calc continueFg { s with fg := .pump (pumpAll s.cfg) .ret }
    _ = resume 31 { s with fg := .pump (pumpAll s.cfg) .ret, env := [] :: s.env } := continueFg_pump hu _ _
    _ = resume 31 { pumpUnits before s with fg := .pump (.blink :: after.flatMap pumpParts) .ret, env := [] :: env } := by
      rw [hgaps]
      exact hrun.resume_gaps 31 ([] :: env)
    _ = continueFg { pumpUnits before s with fg := .pump (.blink :: after.flatMap pumpParts) .ret, env := env } :=
      (continueFg_pump (s := { pumpUnits before s with env := env }) (hu.pumpUnits before) _ _).symm
    _ = startNow (.pumpBlink (after.flatMap pumpParts) .ret) { pumpUnits before s with env := env } :=
      continueFg_blink (s := { pumpUnits before s with env := env }) hbl _ _

/-- Settles O50: the units act on different parts of the state, and the blink unit on none of theirs. -/
theorem pump : Obligations.Pump := by
  unfold Obligations.Pump
  intro s hv
  refine ⟨fun h hz => ?_, fun n m before after rest horder hz henv h => ?_⟩
  · have hle := pump_steps_le hv
    have hrun := (pump_run hv h.undisturbed hz .ret).resume_quiet (32 - unitsSteps s.cfg.pumpOrder s)
    rw [Nat.add_sub_cancel' (by omega)] at hrun
    have hquiet : (scanAdvance (drainOne (processRx s))).env = [] := by
      rw [← pumpUnits_pumpOrder hv, (pumpUnits_course _ s).2.1, h.quiet]
    rw [exec_pump h.ready, continueFg_pump_quiet h.quiet h.undisturbed, hrun, resume_idle _ rfl, ← hquiet]
    rfl
  · have hnodup := (Params.pumpOrder_perm hv).nodup_iff.2 (by decide)
    rw [horder, List.nodup_middle, List.nodup_cons, List.mem_append, not_or, List.nodup_append] at hnodup
    obtain ⟨⟨hbefore, hafter⟩, hnbefore, hnafter, hdisjoint⟩ := hnodup
    have hready : Ready s := h.ready
    have hu : Undisturbed s := h.undisturbed
    have hgaps : pumpGaps after (pumpUnits before s) = pumpGaps after s :=
      pumpGaps_congr fun hm => pumpUnits_sampleReady (fun hm' => hdisjoint _ hm' _ hm rfl) s
    rw [← hgaps] at henv
    have hvalid : (pumpUnits before s).cfg.valid = true := by rwa [pumpUnits_cfg]
    have hreads := h.pumped (rest' := pumpGaps after (pumpUnits before s) ++ rest) before
    have hblink := startNow_pumpBlink hreads rfl hvalid hafter hnafter
    rw [exec_pump hready, continueFg_pump_before hv hu hbefore hnbefore hz horder henv]
    refine hblink.trans (congrArg Host.Outcome.next ?_)
    have hvalue : wideTime (pumpUnits before s).cfg (pumpUnits before s).clk.tally ((pumpUnits before s).hw.cnt + (n + m)) =
        wideTime s.cfg s.clk.tally (s.hw.cnt + (n + m)) := by
      rw [pumpUnits_cfg, pumpUnits_clk, (pumpUnits_course before s).2.2]
    rw [← hvalue, ← pumpEnd_blinkAt, ← pumpUnits_around_blinkAt hv horder]
    rfl

end Sys2Proof.Machine
end

section
/-! SUPPORT. `WAIT` (R251, R252): its two clock readings, the first test, and the `PUMP` that follows a test made in time. -/

namespace Sys2Proof.Machine

/-! ### To the first test -/

/-- R281: `WAIT` where it may be issued. -/
theorem exec_wait {s : State} (h : Ready s) (duration : Nat) :
    exec (.wait duration) s = startNow (.waitBase duration) s := inForeground_idle _ h.1 h.2

theorem later_later (k l : Nat) (env rest : List (List Move)) (s : State) :
    (s.later k env).later l rest = s.later (k + l) rest := by
  simp [State.later, Nat.add_assoc]

/-- WT1 and the gap after it (R251): the start is the clock at the second sample. -/
theorem Reading.startNow_waitBase {a b p start : Nat} {gs : List (List Move)} {s : State}
    (h : Reading a b (tickGap p :: gs) s) (hc : s.hw.cnt + (a + b + p) < 2 ^ s.cfg.wCnt)
    (hstart : wideTime s.cfg s.clk.tally (s.hw.cnt + (a + b)) = start) (duration : Nat) :
    Machine.startNow (.waitBase duration) s = Machine.startNow (.waitTest start duration) (s.later (a + b + p) gs) := by
  have hquiet : Undisturbed (s.reads (.waitTest start duration) .n1 (a + b) gs) := h.undisturbed
  have hgap : gap (tickGap p) (s.reads (.waitTest start duration) .n1 (a + b) gs) =
      s.reads (.waitTest start duration) .n1 (a + b + p) gs := by
    rw [gap_tickGap p hquiet (by simpa [State.reads, State.later, Nat.add_assoc] using hc)]
    simp [State.reads, State.later, Nat.add_assoc]
  have hstep : fgStep (s.reads (.waitBase duration) (.n5 s.clk.tally (s.hw.cnt + (a + b))) (a + b) (tickGap p :: gs)) =
      .next (s.reads (.waitTest start duration) .n1 (a + b) (tickGap p :: gs)) := by
    rw [← hstart]
    rfl
  rw [h.startNow]
  exact (continueFg_gap hstep rfl rfl rfl (congrArg State.env hgap)).trans (congrArg continueFg hgap)

/-- The clock samples of a reading in which no tick wraps the counter are accepted, if there is a tick or equal samples
are (R137, R141). -/
theorem sampleAccepted_add {P : Params} {k : Nat} (h : 0 < k ∨ P.retryOnEqual = false) (c : Nat) :
    sampleAccepted P c (c + k) = true := by
  unfold sampleAccepted
  cases hr : P.retryOnEqual with
  | true => simpa [hr] using h
  | false => simp

/-- The foreground of `t` stands before the test of a `WAIT` begun at `start`, the clock read (WT2 of R251). -/
def State.testing (start duration : Nat) (t : State) : State :=
  { t with fg := .now (.n5 t.clk.tally t.hw.cnt) (.waitTest start duration) }

/-- The schedule under which a `WAIT` comes to its first test: `a + b` ticks in the reading of its start, `p` after it, and
`c + d` in the reading of the test. -/
structure FirstTest (a b p c d : Nat) (rest : List (List Move)) (s : State) : Prop where
  ready : Ready s
  undisturbed : Undisturbed s
  schedule : s.env = tickGap a :: (tallyGaps s.cfg ++ tickGap b :: [] :: [] :: tickGap p ::
    tickGap c :: (tallyGaps s.cfg ++ tickGap d :: [] :: [] :: rest))
  no_wrap : s.hw.cnt + (a + b + p + c + d) < 2 ^ s.cfg.wCnt
  first : 0 < a + b ∨ s.cfg.retryOnEqual = false
  second : 0 < c + d ∨ s.cfg.retryOnEqual = false

section
variable {a b p c d : Nat} {rest : List (List Move)} {s : State} (h : FirstTest a b p c d rest s)
include h

theorem FirstTest.exec_wait (duration : Nat) : exec (.wait duration) s = continueFg
    ((s.later (a + b + p + c + d) rest).testing (wideTime s.cfg s.clk.tally (s.hw.cnt + (a + b))) duration) := by
  have hwrap := h.no_wrap
  have hfirst : Reading a b _ s :=
    ⟨h.ready, h.schedule, h.undisturbed, by omega, sampleAccepted_add h.first _⟩
  have hsecond : Reading c d rest (s.later (a + b + p) (tickGap c :: (tallyGaps s.cfg ++ tickGap d :: [] :: [] :: rest))) :=
    ⟨h.ready, rfl, h.undisturbed, by simp only [State.later]; omega, sampleAccepted_add h.second _⟩
  have hsum : a + b + p + (c + d) = a + b + p + c + d := by omega
  rw [Machine.exec_wait h.ready, hfirst.startNow_waitBase (by omega) rfl, hsecond.startNow, State.reads, later_later, hsum]
  simp only [State.later, State.testing, Nat.add_assoc]

/-- R252: the test compares the ticks since the start. -/
theorem FirstTest.elapsed (duration : Nat) :
    Machine.elapsed s.cfg (wideTime s.cfg s.clk.tally (s.hw.cnt + (a + b + p + c + d)))
      (wideTime s.cfg s.clk.tally (s.hw.cnt + (a + b))) duration = decide (duration < p + c + d) := by
  have hwrap := h.no_wrap
  have hperiod : 2 ^ s.cfg.wCnt ≤ 2 ^ s.cfg.wTime := Nat.pow_le_pow_right Nat.two_pos (Nat.le_add_left ..)
  have hsum : s.hw.cnt + (a + b + p + c + d) = s.hw.cnt + (a + b) + (p + c + d) := by omega
  rw [hsum, wideTime_add]
  exact elapsed_add (by omega) _ _

end

/-! ### After the first test -/

/-- WT3 on a test made too late (R251). -/
theorem continueFg_testing_late {start duration : Nat} {t : State}
    (h : elapsed t.cfg (wideTime t.cfg t.clk.tally t.hw.cnt) start duration = true) :
    continueFg (t.testing start duration) = .next (finish .none t) := by
  have hstep : fgStep (t.testing start duration) = .next (finish .none t) := if_pos h
  exact runFg_of_idle hstep rfl

/-- WT3 on a test made in time: WT4 begins (R251). -/
theorem fgStep_testing_inTime {start duration : Nat} {t : State} (hv : t.cfg.valid = true)
    (h : elapsed t.cfg (wideTime t.cfg t.clk.tally t.hw.cnt) start duration = false) :
    fgStep (t.testing start duration) = .next { t with fg := .pump (pumpAll t.cfg) (.wait start duration) } := by
  have hstep : fgStep (t.testing start duration) =
      .next (pumpGoOn (pumpAll t.cfg) (.wait start duration) (t.testing start duration)) :=
    if_neg (by simp [State.testing, h])
  rw [hstep, pumpGoOn_pumpAll hv]
  rfl

/-- Where the loop of a `WAIT` stops in a quiet environment: at N2 of a reading that retries on equal samples, else before
a reading that would only repeat (R141, R251). -/
def State.loopPhase (t : State) : NowPhase := if t.cfg.retryOnEqual then .n2 t.hw.cnt else .n1

/-- WT2 in a quiet environment. -/
theorem resume_waitTest {t : State} (hu : Undisturbed t) (henv : t.env = []) (base duration q : Nat) :
    resume (q + 1) { t with fg := .now .n1 (.waitTest base duration), env := [] } =
      .next { t with fg := .now t.loopPhase (.waitTest base duration) } := by
  have hquiet : Undisturbed { t with fg := .now .n1 (.waitTest base duration) } := hu
  have hend : { t with fg := .now t.loopPhase (.waitTest base duration) } =
      { t with fg := .now t.loopPhase (.waitTest base duration), env := [] } := by rw [← henv]
  rw [hend]
  cases hr : t.cfg.retryOnEqual with
  | true =>
    have hphase : t.loopPhase = .n2 t.hw.cnt := if_pos hr
    have hgoes : { t with fg := .now .n1 (.waitTest base duration) }.awaits = false := by simp [State.awaits, hr]
    have hstep : fgStep { t with fg := .now .n1 (.waitTest base duration), env := [] } =
        .next { t with fg := .now (.n2 t.hw.cnt) (.waitTest base duration), env := [] } := rfl
    rw [hphase]
    exact (resume_quiet hquiet rfl hgoes (q + 1)).trans
      (runFg_pauses hstep rfl rfl hu (by simp [State.awaits, hr]))
  | false =>
    have hphase : t.loopPhase = .n1 := if_neg (by simp [hr])
    have hwaits : { t with fg := .now .n1 (.waitTest base duration) }.awaits = true := by simp [State.awaits, hr]
    rw [hphase]
    exact resume_waits hquiet rfl hwaits (q + 1)

/-- WT4 with no sequence blinking, in a quiet environment: one `PUMP`, and the loop is at its next reading (R251). -/
theorem continueFg_testing_pumps {start duration : Nat} {t : State} (hv : t.cfg.valid = true) (hu : Undisturbed t)
    (henv : t.env = []) (hz : t.bl.remaining = 0)
    (h : elapsed t.cfg (wideTime t.cfg t.clk.tally t.hw.cnt) start duration = false) :
    continueFg (t.testing start duration) = .next { scanAdvance (drainOne (processRx t)) with
      fg := .now t.loopPhase (.waitTest start duration) } := by
  have hle := pump_steps_le hv
  have hrun := (pump_run hv hu hz (.wait start duration)).resume_quiet (30 - unitsSteps t.cfg.pumpOrder t + 1)
  rw [← Nat.add_assoc, Nat.add_sub_cancel' (by omega), ← pumpUnits_pumpOrder hv] at hrun
  obtain ⟨-, henv', hcnt⟩ := pumpUnits_course t.cfg.pumpOrder t
  have hphase : (pumpUnits t.cfg.pumpOrder t).loopPhase = t.loopPhase := by
    rw [State.loopPhase, pumpUnits_cfg, hcnt, State.loopPhase]
  have hloop := resume_waitTest (hu.pumpUnits t.cfg.pumpOrder) (henv'.trans henv) start duration
    (30 - unitsSteps t.cfg.pumpOrder t)
  have hpump : { t with fg := .pump (pumpAll t.cfg) (.wait start duration) } =
      { t with fg := .pump (pumpAll t.cfg) (.wait start duration), env := [] } := by rw [← henv]
  rw [continueFg_eq_resume (fgStep_testing_inTime hv h) rfl, hpump, ← pumpUnits_pumpOrder hv, ← hphase]
  exact hrun.trans hloop

end Sys2Proof.Machine
end

section
/-! SUPPORT. The loop of a `WAIT` whose clock stands still (R251): with the environment quiet and no handler to run, a test made
in time is made in time again, whatever the blink sequence does in the `PUMP` before it. -/

namespace Sys2Proof.Machine

/-! ### The clock stands -/

/-- `s` shows the clock of `u`, and neither a tick nor a handler will change it. -/
structure Standing (u s : State) : Prop where
  cfg : s.cfg = u.cfg
  clk : s.clk = u.clk
  counter : s.hw.cnt = u.hw.cnt
  quiet : s.env = []
  undisturbed : Undisturbed s

theorem ActsOn.standing {p : Part} {f : State → State} (hf : ActsOn p f) (hcourse : p ≠ .course) (htally : p ≠ .tally)
    {u s : State} (h : Standing u s) (hu : Undisturbed (f s)) : Standing u (f s) := by
  have hclk : f s = (f s).withPart .tally s := by rw [← hf.withPart htally, withPart_self]
  have hplace : f s = (f s).withPart .course s := by rw [← hf.withPart hcourse, withPart_self]
  exact
    { cfg := (hf.cfg s).trans h.cfg
      clk := (congrArg State.clk hclk).trans h.clk
      counter := (congrArg (fun t => t.hw.cnt) hplace).trans h.counter
      quiet := (congrArg State.env hplace).trans h.quiet
      undisturbed := hu }

/-! ### Inside the loop -/

/-- The locals of a clock reading hold what the clock of `u` shows. -/
def NowPhase.shows (u : State) : NowPhase → Prop
  | .n1 | .n2 _ => True
  | .n2rest _ o writes _ => o = u.clk.tally ∧ writes = u.clk.writes
  | .n3 _ o => o = u.clk.tally
  | .n4 _ o c2 | .n5 o c2 => o = u.clk.tally ∧ c2 = u.hw.cnt

/-- The operation that reads the clock is the test of the `WAIT`, or the blink unit of its `PUMP`. -/
def AfterNow.inLoop (base duration : Nat) : AfterNow → Prop
  | .waitTest b d => b = base ∧ d = duration
  | .pumpBlink _ k => k = .wait base duration
  | _ => False

/-- The foreground is inside the loop of the `WAIT` (R251). -/
def Fg.inLoop (u : State) (base duration : Nat) : Fg → Prop
  | .now ph k => ph.shows u ∧ k.inLoop base duration
  | .pump _ k => k = .wait base duration
  | _ => False

/-- `s` is inside the loop of the `WAIT`, and the clock stands as in `u`. -/
structure Looping (u : State) (base duration : Nat) (s : State) : Prop extends Standing u s where
  place : s.fg.inLoop u base duration

theorem Fg.inLoop.ne_idle {u : State} {base duration : Nat} {l : Fg} (h : l.inLoop u base duration) : l ≠ .idle := by
  rintro rfl
  exact h

section
variable {u s t : State} {base duration : Nat}

theorem Standing.move (h : Standing u s) {l : Fg} (hl : l.inLoop u base duration) :
    Looping u base duration { s with fg := l } :=
  { h with place := hl }

theorem Standing.pumpGoOn (h : Standing u s) (todo : List PumpPart) :
    Looping u base duration (pumpGoOn todo (.wait base duration) s) := by
  cases todo with
  | nil => exact h.move ⟨trivial, rfl, rfl⟩
  | cons p ps => exact h.move rfl

/-- PU1 to PU5: none of them writes the clock (R250). -/
theorem Standing.pumpStep (h : Standing u s) (p : PumpPart) (todo : List PumpPart)
    (e : pumpStep p todo (.wait base duration) s = .next t) : Looping u base duration t := by
  cases p with
  | rx =>
    cases e
    exact (processRx_actsOn.standing nofun nofun h h.undisturbed.processRx).pumpGoOn todo
  | tx =>
    cases e
    exact (drainOne_actsOn.standing nofun nofun h h.undisturbed.drainOne).pumpGoOn todo
  | adcPoll =>
    obtain ⟨-, hpoll⟩ | ⟨-, hpoll⟩ := adcPoll_cases s <;> simp only [Machine.pumpStep, hpoll] at e <;> cases e
    · have hstored : Standing u (storeSample s) := ⟨h.cfg, h.clk, h.counter, h.quiet, h.undisturbed⟩
      exact hstored.pumpGoOn _
    · exact h.pumpGoOn todo
  | adcNext =>
    simp only [Machine.pumpStep] at e
    split at e
    · next s1 hs =>
      obtain ⟨-, c, -, rfl⟩ := startNextConversion_next hs
      have hstarted : Standing u (beginConversion c.ch
          { s with adc := { s.adc with cur := (s.adc.cur + 1) % s.cfg.channels.length } }) :=
        ⟨h.cfg, h.clk, h.counter, h.quiet, h.undisturbed⟩
      cases e
      exact hstarted.pumpGoOn todo
    · cases e
    · cases e
  | blink =>
    simp only [Machine.pumpStep] at e
    split at e
    · cases e
      exact h.pumpGoOn todo
    · cases e
      exact h.move ⟨trivial, rfl⟩

/-- N5 on the clock that stands: the test is made in time again, or the blink step is made (R242, R251). -/
theorem Standing.afterNow (h : Standing u s) {k : AfterNow} (hk : k.inLoop base duration)
    (hlate : elapsed u.cfg (wideTime u.cfg u.clk.tally u.hw.cnt) base duration = false)
    (e : afterNow (wideTime s.cfg u.clk.tally u.hw.cnt) k s = .next t) : Looping u base duration t := by
  cases k with
  | waitTest b d =>
    obtain ⟨rfl, rfl⟩ := hk
    rw [← h.cfg] at hlate
    simp only [Machine.afterNow, hlate, Bool.false_eq_true, if_false] at e
    cases e
    exact h.pumpGoOn _
  | pumpBlink todo k =>
    cases hk
    cases e
    have hblink := blinkAt_actsOn (wideTime s.cfg u.clk.tally u.hw.cnt)
    exact (hblink.standing nofun nofun h (hblink.undisturbed (.inr rfl) h.undisturbed)).pumpGoOn todo
  | _ => exact absurd hk id

/-- N1 to N5 on the clock that stands (R137). -/
theorem Standing.nowStep (h : Standing u s) {ph : NowPhase} {k : AfterNow} (hph : ph.shows u)
    (hk : k.inLoop base duration)
    (hlate : elapsed u.cfg (wideTime u.cfg u.clk.tally u.hw.cnt) base duration = false)
    (e : nowStep ph k s = .next t) : Looping u base duration t := by
  have htally : s.clk.tally = u.clk.tally := congrArg Clock.tally h.clk
  have hwrites : s.clk.writes = u.clk.writes := congrArg Clock.writes h.clk
  cases ph with
  | n1 =>
    cases e
    exact h.move ⟨trivial, hk⟩
  | n2 c1 =>
    simp only [Machine.nowStep] at e
    split at e <;> cases e
    · exact h.move ⟨htally, hk⟩
    · exact h.move ⟨⟨htally, hwrites⟩, hk⟩
  | n2rest c1 o writes left =>
    obtain ⟨ho, hw⟩ := hph
    simp only [Machine.nowStep, readTally, hw, hwrites, if_true] at e
    split at e <;> cases e
    · exact h.move ⟨ho, hk⟩
    · exact h.move ⟨⟨ho, rfl⟩, hk⟩
  | n3 c1 o =>
    cases e
    exact h.move ⟨⟨hph, h.counter⟩, hk⟩
  | n4 c1 o c2 =>
    simp only [Machine.nowStep] at e
    split at e <;> cases e
    · exact h.move ⟨hph, hk⟩
    · exact h.move ⟨trivial, hk⟩
  | n5 o c2 =>
    obtain ⟨rfl, rfl⟩ := hph
    exact h.afterNow hk hlate e

section
variable (hlate : elapsed u.cfg (wideTime u.cfg u.clk.tally u.hw.cnt) base duration = false)
include hlate

theorem Looping.step (h : Looping u base duration s) (e : fgStep s = .next t) : Looping u base duration t := by
  obtain ⟨hs, hplace⟩ := h
  unfold fgStep at e
  cases hfg : s.fg <;> rw [hfg] at hplace <;> simp only [hfg] at e
  case now ph k =>
    obtain ⟨hph, hk⟩ := hplace
    exact hs.nowStep hph hk hlate e
  case pump todo k =>
    cases hplace
    cases todo with
    | nil => cases e; exact hs.pumpGoOn []
    | cons p todo => exact hs.pumpStep p todo e
  all_goals exact absurd hplace id

/-- R251: the loop goes on. -/
theorem Looping.run (n : Nat) (h : Looping u base duration s) (e : runFg n s = .next t) : Looping u base duration t := by
  induction n generalizing s with
  | zero => exact h.step hlate e
  | succ n ih =>
    unfold runFg at e
    split at e
    · next s1 hs =>
      have h1 := h.step hlate hs
      simp only [h1.quiet, h1.undisturbed.serveAll_eq_self] at e
      split at e
      · cases e
        exact h1
      · split at e
        · cases e
          exact h1
        · exact ih h1 e
    · cases e
    · cases e

end
end

/-- Settles O51: the two readings of the schedule, and what the first test answers. -/
theorem wait : Obligations.Wait := by
  unfold Obligations.Wait
  intro duration a b p c d rest s hready hu hv henv hwrap hfirst hsecond start tested next
  have h : FirstTest a b p c d rest s := ⟨hready, hu, henv, hwrap, hfirst, hsecond⟩
  have hexec : exec (.wait duration) s = continueFg (tested.testing start duration) := h.exec_wait duration
  have htest : elapsed tested.cfg (wideTime tested.cfg tested.clk.tally tested.hw.cnt) start duration =
      decide (duration < p + c + d) := h.elapsed duration
  have hinTime (hle : p + c + d ≤ duration) :
      elapsed tested.cfg (wideTime tested.cfg tested.clk.tally tested.hw.cnt) start duration = false :=
    htest.trans (decide_eq_false hle.not_gt)
  refine ⟨fun hlt => ?_, fun hle hrest hz => ?_, fun hle hrest t e => ?_⟩
  · exact hexec.trans (continueFg_testing_late (htest.trans (decide_eq_true hlt)))
  · exact hexec.trans (continueFg_testing_pumps hv hu hrest hz (hinTime hle))
  · have hloops : Looping tested start duration (tested.testing start duration) :=
      ⟨⟨rfl, rfl, rfl, hrest, hu⟩, ⟨⟨rfl, rfl⟩, rfl, rfl⟩⟩
    exact (hloops.run (hinTime hle) _ (hexec.symm.trans e)).place.ne_idle

end Sys2Proof.Machine
end
